-- ==== Sys2Proof/Word.lean ====
section
/-! DEFINITION. The word types of the CHIP-8 core: bytes, 16-bit words, 12-bit addresses, register indices (R13, R14, R58). -/

namespace Sys2Proof

/-- An 8-bit value: a V register, a memory byte, a timer, the immediate kk (R20, R29, R39). -/
abbrev Byte := BitVec 8

/-- A 16-bit value: an opcode, pc, I, a stack entry, the keyboard snapshot (R23, R26, R27, R33). -/
abbrev Word := BitVec 16

/-- The 12-bit address field nnn of an opcode (R56). -/
abbrev Addr := BitVec 12

/-- The index of one of the sixteen V registers, from a 4-bit opcode field, hence always in range (R20, R58). -/
abbrev Reg := Fin 16

end Sys2Proof
end

