-- ==== Sys2Proof/Syntax.lean ====
section
/-! DEFINITION. The 35 instructions of the base CHIP-8 set, one constructor per row of spec/opcode_table.json (R2, R57, R60). -/

namespace Sys2Proof

/-- "A tagged-variant enumeration of instruction kinds produced by decode, each carrying its operands" (R59). -/
inductive Instr where
  | cls                                  -- 00E0
  | ret                                  -- 00EE
  | sys (nnn : Addr)                     -- 0nnn
  | jp (nnn : Addr)                      -- 1nnn
  | call (nnn : Addr)                    -- 2nnn
  | seVB (x : Reg) (kk : Byte)           -- 3xkk
  | sneVB (x : Reg) (kk : Byte)          -- 4xkk
  | seVV (x y : Reg)                     -- 5xy0
  | ldVB (x : Reg) (kk : Byte)           -- 6xkk
  | addVB (x : Reg) (kk : Byte)          -- 7xkk
  | ldVV (x y : Reg)                     -- 8xy0
  | orVV (x y : Reg)                     -- 8xy1
  | andVV (x y : Reg)                    -- 8xy2
  | xorVV (x y : Reg)                    -- 8xy3
  | addVV (x y : Reg)                    -- 8xy4
  | subVV (x y : Reg)                    -- 8xy5
  | shr (x y : Reg)                      -- 8xy6, y decoded and unused
  | subn (x y : Reg)                     -- 8xy7
  | shl (x y : Reg)                      -- 8xyE, y decoded and unused
  | sneVV (x y : Reg)                    -- 9xy0
  | ldIA (nnn : Addr)                    -- Annn
  | jpV0 (nnn : Addr)                    -- Bnnn
  | rnd (x : Reg) (kk : Byte)            -- Cxkk
  | drw (x y : Reg) (n : Fin 16)         -- Dxyn, n a count of rows
  | skp (x : Reg)                        -- Ex9E
  | sknp (x : Reg)                       -- ExA1
  | ldVDT (x : Reg)                      -- Fx07
  | ldVK (x : Reg)                       -- Fx0A
  | ldDTV (x : Reg)                      -- Fx15
  | ldSTV (x : Reg)                      -- Fx18
  | addIV (x : Reg)                      -- Fx1E
  | ldFV (x : Reg)                       -- Fx29
  | ldBV (x : Reg)                       -- Fx33
  | ldMV (x : Reg)                       -- Fx55
  | ldVM (x : Reg)                       -- Fx65
  deriving DecidableEq, Repr

end Sys2Proof
end

