-- ==== Sys2Proof/WellFormed.lean ====
section
/-! DEFINITION. Which terms of Instr are instructions: all whose word is their own. The types bound every operand field
(R58); the one check left is that SYS is not the word of CLS or RET (R61). -/

namespace Sys2Proof

/-- SYS 0nnn takes every nnn but 0x0E0 and 0x0EE, whose words are CLS and RET (R60, R61). -/
def Instr.wf : Instr → Bool
  | .sys nnn => nnn != 0x0E0 && nnn != 0x0EE
  | .cls | .ret | .jp _ | .call _ | .seVB _ _ | .sneVB _ _ | .seVV _ _ | .ldVB _ _ | .addVB _ _ | .ldVV _ _
  | .orVV _ _ | .andVV _ _ | .xorVV _ _ | .addVV _ _ | .subVV _ _ | .shr _ _ | .subn _ _ | .shl _ _ | .sneVV _ _
  | .ldIA _ | .jpV0 _ | .rnd _ _ | .drw _ _ _ | .skp _ | .sknp _ | .ldVDT _ | .ldVK _ | .ldDTV _ | .ldSTV _
  | .addIV _ | .ldFV _ | .ldBV _ | .ldMV _ | .ldVM _ => true

end Sys2Proof
end

