-- ==== Sys2Proof/Decode.lean ====
section
/-! DEFINITION. Decode and dispatch (R55 to R63): total on any bytes, rejecting by name; then the encoder, written from the
same patterns (R57, R60). -/

namespace Sys2Proof

/-! ### The fields of an opcode (R56) -/

/-- d1 = opcode[15:12]. -/
def fieldD1 (w : Word) : BitVec 4 := w.extractLsb' 12 4
/-- x = d2 = opcode[11:8], the register X. -/
def fieldX (w : Word) : Reg := (w.extractLsb' 8 4).toFin
/-- y = d3 = opcode[7:4], the register Y. -/
def fieldY (w : Word) : Reg := (w.extractLsb' 4 4).toFin
/-- n = d4 = opcode[3:0], the sub-opcode or the sprite height. -/
def fieldN (w : Word) : Fin 16 := (w.extractLsb' 0 4).toFin
/-- kk = opcode[7:0], the 8-bit immediate. -/
def fieldKK (w : Word) : Byte := w.extractLsb' 0 8
/-- nnn = opcode[11:0], the 12-bit address. -/
def fieldNNN (w : Word) : Addr := w.extractLsb' 0 12

/-! ### Dispatch (R59, R60) -/

/-- Why bytes are no instruction. -/
inductive DecodeError where
  /-- A word that selects no instruction (R62). Not an error of the machine: it executes as a no-op. -/
  | unknownOpcode (w : Word)
  /-- Fewer than the two bytes that every instruction has (R55). -/
  | truncated
  deriving DecidableEq, Repr

/-- Group 0: the two exact words take precedence over SYS (R60, R61). -/
def decodeGroup0 (w : Word) : Instr :=
  if w = 0x00E0 then .cls else if w = 0x00EE then .ret else .sys (fieldNNN w)

/-- Group 8: d4 selects (R60). -/
def decodeGroup8 (w : Word) : Except DecodeError Instr :=
  let x := fieldX w
  let y := fieldY w
  if fieldN w = 0x0 then .ok (.ldVV x y)
  else if fieldN w = 0x1 then .ok (.orVV x y)
  else if fieldN w = 0x2 then .ok (.andVV x y)
  else if fieldN w = 0x3 then .ok (.xorVV x y)
  else if fieldN w = 0x4 then .ok (.addVV x y)
  else if fieldN w = 0x5 then .ok (.subVV x y)
  else if fieldN w = 0x6 then .ok (.shr x y)
  else if fieldN w = 0x7 then .ok (.subn x y)
  else if fieldN w = 0xE then .ok (.shl x y)
  else .error (.unknownOpcode w)

/-- Group E: kk selects (R60). -/
def decodeGroupE (w : Word) : Except DecodeError Instr :=
  if fieldKK w = 0x9E then .ok (.skp (fieldX w))
  else if fieldKK w = 0xA1 then .ok (.sknp (fieldX w))
  else .error (.unknownOpcode w)

/-- Group F: kk selects (R60). -/
def decodeGroupF (w : Word) : Except DecodeError Instr :=
  let x := fieldX w
  if fieldKK w = 0x07 then .ok (.ldVDT x)
  else if fieldKK w = 0x0A then .ok (.ldVK x)
  else if fieldKK w = 0x15 then .ok (.ldDTV x)
  else if fieldKK w = 0x18 then .ok (.ldSTV x)
  else if fieldKK w = 0x1E then .ok (.addIV x)
  else if fieldKK w = 0x29 then .ok (.ldFV x)
  else if fieldKK w = 0x33 then .ok (.ldBV x)
  else if fieldKK w = 0x55 then .ok (.ldMV x)
  else if fieldKK w = 0x65 then .ok (.ldVM x)
  else .error (.unknownOpcode w)

/-- The opcode map of R60, by d1; groups 5 and 9 also fix d4 = 0 (C9). The last branch is d1 = F. -/
def decodeWord (w : Word) : Except DecodeError Instr :=
  let d1 := fieldD1 w
  let x := fieldX w
  let y := fieldY w
  let kk := fieldKK w
  let nnn := fieldNNN w
  if d1 = 0x0 then .ok (decodeGroup0 w)
  else if d1 = 0x1 then .ok (.jp nnn)
  else if d1 = 0x2 then .ok (.call nnn)
  else if d1 = 0x3 then .ok (.seVB x kk)
  else if d1 = 0x4 then .ok (.sneVB x kk)
  else if d1 = 0x5 then if fieldN w = 0 then .ok (.seVV x y) else .error (.unknownOpcode w)
  else if d1 = 0x6 then .ok (.ldVB x kk)
  else if d1 = 0x7 then .ok (.addVB x kk)
  else if d1 = 0x8 then decodeGroup8 w
  else if d1 = 0x9 then if fieldN w = 0 then .ok (.sneVV x y) else .error (.unknownOpcode w)
  else if d1 = 0xA then .ok (.ldIA nnn)
  else if d1 = 0xB then .ok (.jpV0 nnn)
  else if d1 = 0xC then .ok (.rnd x kk)
  else if d1 = 0xD then .ok (.drw x y (fieldN w))
  else if d1 = 0xE then decodeGroupE w
  else decodeGroupF w

/-- The opcode of two bytes, the first the more significant one (R44, R68). -/
def opcodeOf (hi lo : Byte) : Word := hi ++ lo

/-- Decode the instruction at the head of a byte sequence and give back the bytes after it; always two bytes (R55). -/
def decode : List Byte → Except DecodeError (Instr × List Byte)
  | hi :: lo :: rest =>
    match decodeWord (opcodeOf hi lo) with
    | .ok i => .ok (i, rest)
    | .error e => .error e
  | [_] => .error .truncated
  | [] => .error .truncated

/-! ### The encoder (R57, R60) -/

/-- Formats N, XY, XYN and X: four nibbles. -/
def wordOfNibbles (d1 : BitVec 4) (d2 d3 d4 : Fin 16) : Word :=
  d1 ++ (BitVec.ofFin d2 : BitVec 4) ++ (BitVec.ofFin d3 : BitVec 4) ++ (BitVec.ofFin d4 : BitVec 4)

/-- Formats XKK and X: a nibble, x, a byte. -/
def wordOfXKK (d1 : BitVec 4) (x : Reg) (kk : Byte) : Word := d1 ++ (BitVec.ofFin x : BitVec 4) ++ kk

/-- Format NNN: a nibble and a 12-bit address. -/
def wordOfNNN (d1 : BitVec 4) (nnn : Addr) : Word := d1 ++ nnn

/-- The 16-bit word of an instruction. SHR and SHL keep the y field that they do not use (R57). -/
def encodeWord : Instr → Word
  | .cls => 0x00E0
  | .ret => 0x00EE
  | .sys nnn => wordOfNNN 0x0 nnn
  | .jp nnn => wordOfNNN 0x1 nnn
  | .call nnn => wordOfNNN 0x2 nnn
  | .seVB x kk => wordOfXKK 0x3 x kk
  | .sneVB x kk => wordOfXKK 0x4 x kk
  | .seVV x y => wordOfNibbles 0x5 x y 0x0
  | .ldVB x kk => wordOfXKK 0x6 x kk
  | .addVB x kk => wordOfXKK 0x7 x kk
  | .ldVV x y => wordOfNibbles 0x8 x y 0x0
  | .orVV x y => wordOfNibbles 0x8 x y 0x1
  | .andVV x y => wordOfNibbles 0x8 x y 0x2
  | .xorVV x y => wordOfNibbles 0x8 x y 0x3
  | .addVV x y => wordOfNibbles 0x8 x y 0x4
  | .subVV x y => wordOfNibbles 0x8 x y 0x5
  | .shr x y => wordOfNibbles 0x8 x y 0x6
  | .subn x y => wordOfNibbles 0x8 x y 0x7
  | .shl x y => wordOfNibbles 0x8 x y 0xE
  | .sneVV x y => wordOfNibbles 0x9 x y 0x0
  | .ldIA nnn => wordOfNNN 0xA nnn
  | .jpV0 nnn => wordOfNNN 0xB nnn
  | .rnd x kk => wordOfXKK 0xC x kk
  | .drw x y n => wordOfNibbles 0xD x y n
  | .skp x => wordOfXKK 0xE x 0x9E
  | .sknp x => wordOfXKK 0xE x 0xA1
  | .ldVDT x => wordOfXKK 0xF x 0x07
  | .ldVK x => wordOfXKK 0xF x 0x0A
  | .ldDTV x => wordOfXKK 0xF x 0x15
  | .ldSTV x => wordOfXKK 0xF x 0x18
  | .addIV x => wordOfXKK 0xF x 0x1E
  | .ldFV x => wordOfXKK 0xF x 0x29
  | .ldBV x => wordOfXKK 0xF x 0x33
  | .ldMV x => wordOfXKK 0xF x 0x55
  | .ldVM x => wordOfXKK 0xF x 0x65

/-- The more significant byte of a word, the one at the lower address (R44). -/
def highByte (w : Word) : Byte := w.extractLsb' 8 8

/-- The less significant byte of a word, the one at the higher address (R44). -/
def lowByte (w : Word) : Byte := w.extractLsb' 0 8

/-- The two bytes of an instruction, as memory holds them (R44). -/
def encode (i : Instr) : List Byte := [highByte (encodeWord i), lowByte (encodeWord i)]

/-! ### The host's reading of a table word -/

/-- The 16-bit word whose nbits low bits are those of w and whose other bits are 0 (every row of the table has 16 bits). -/
def tableWord (nbits w : Nat) : Word := BitVec.ofNat 16 (w % 2 ^ nbits)

/-- What the decoder reads from the word w of nbits bits, laid out big-endian (R44). -/
def decodeTableWord (nbits w : Nat) : Option Instr :=
  match decode [highByte (tableWord nbits w), lowByte (tableWord nbits w)] with
  | .ok (i, _) => some i
  | .error _ => none

end Sys2Proof
end

