-- ==== Sys2Proof/Config.lean ====
section
/-! DEFINITION. What an implementation fixes (the fixed parameters of R11, the font parameters of R12) and the one free
value of the model, the random byte (R101, log 2). -/

namespace Sys2Proof

/-- The open parameters of R12, which a model takes as an argument: every statement over all states holds for every
choice of them (log 3). -/
structure Config where
  /-- FONT_BASE. R12 asks FONT_BASE + 80 ≤ 0x200, so it is one of 0 … 432. -/
  fontBase : Fin 433
  /-- FONT_DATA: 16 glyphs of 5 bytes, glyph g at 5g … 5g + 4, top row first (R105). -/
  font : Vector Byte 80
  deriving DecidableEq, Repr

namespace Config

/-- MEM_SIZE of R11: addresses 0x000 to 0xFFF. -/
@[simp, reducible] def memSize : Nat := 4096

/-- PROGRAM_START of R11, where pc starts and the ROM is loaded. -/
@[simp, reducible] def programStart : Nat := 0x200

/-- STACK_DEPTH of R11. -/
@[simp, reducible] def stackDepth : Nat := 16

/-- The default FONT_DATA, the table of R105 (the spec has it from general knowledge, G8). -/
def standardFont : Vector Byte 80 :=
  #v[0xF0, 0x90, 0x90, 0x90, 0xF0,  0x20, 0x60, 0x20, 0x20, 0x70,
     0xF0, 0x10, 0xF0, 0x80, 0xF0,  0xF0, 0x10, 0xF0, 0x10, 0xF0,
     0x90, 0x90, 0xF0, 0x10, 0x10,  0xF0, 0x80, 0xF0, 0x10, 0xF0,
     0xF0, 0x80, 0xF0, 0x90, 0xF0,  0xF0, 0x10, 0x20, 0x40, 0x40,
     0xF0, 0x90, 0xF0, 0x90, 0xF0,  0xF0, 0x90, 0xF0, 0x10, 0xF0,
     0xF0, 0x90, 0xF0, 0x90, 0x90,  0xE0, 0x90, 0xE0, 0x90, 0xE0,
     0xF0, 0x80, 0x80, 0x80, 0xF0,  0xE0, 0x90, 0x90, 0x90, 0xE0,
     0xF0, 0x80, 0xF0, 0x80, 0xF0,  0xF0, 0x80, 0xF0, 0x80, 0x80]

/-- The defaults of R12: FONT_BASE = 0x050 and FONT_DATA = the table of R105. DESIGN CHOICE of the spec (D12), log 3. -/
def standard : Config := { fontBase := 0x050, font := standardFont }

/-- FREE VALUE (DESIGN CHOICE, log 2): the random byte of the n-th draw of Cxkk, "a free draw of any byte" (R101, D19).
It has no body, so no proof can see a value of it. -/
opaque randomByte : Nat → Byte

end Config

end Sys2Proof
end

