-- ==== Sys2Proof/Machine/State.lean ====
section
/-! DEFINITION. The State Container of R18, every field of it, as plain data; the reasons a step can stop; and the state
after reset (R38, R142). -/

namespace Sys2Proof.Machine

/-- The four fatal causes of R118. An instruction or a fetch that meets one TAKES it: the next state has mode
`faulted cause` and is otherwise the state before the step (R73). The outcome `fault cause` itself is raised by `step`
alone, in mode `faulted cause` (R74: "a step changes no state and returns Fault(c) again"). Safe: the spec freezes the
core there (log 1). -/
inductive Fault where
  /-- Code 1: CALL with 16 entries on the stack (R82). Raised by step in the mode that this leaves; safe. -/
  | stackOverflow
  /-- Code 2: RET with an empty stack (R80). Raised by step in the mode that this leaves; safe. -/
  | stackUnderflow
  /-- Code 3: a fetch with pc ≥ 0xFFF (R69). Raised by step in the mode that this leaves; safe. -/
  | fetchOutOfBounds
  /-- Code 4: Fx33, Fx55, Fx65 or Dxyn whose address range reaches 4096 (R46). Raised by step in the mode that this
  leaves; safe. -/
  | memoryOutOfBounds
  deriving DecidableEq, Repr

/-- Why something has no meaning at all. -/
inductive Refusal where
  /-- An instruction rejected by name in exec's arm; no arm of this model raises it. Safe. -/
  | notModelled (mnemonic : String)
  /-- Raised by the host-level session alone: an operation asked of a core that was never initialized (R19, D26). Safe. -/
  | beforeInitialize
  deriving DecidableEq, Repr

/-- The interpreter mode of R34. -/
inductive Mode where
  /-- "Running is the only steady state". -/
  | running
  /-- Entered by Fx0A: the destination register and the keyboard snapshot last seen, bit k for key k (R34, R75). -/
  | awaitingKey (x : Reg) (base : Word)
  /-- Entered by a fatal error; no instruction executes (R74). -/
  | faulted (cause : Fault)
  deriving DecidableEq, Repr

/-- The framebuffer: 32 rows of 64 pixels, row y at index y, pixel (x, y) the bit x of row y (R30, log 8). -/
abbrev Frame := Vector (BitVec 64) 32

/-- Memory as the sorted list of the bytes that differ from their value at reset (log 4). -/
abbrev Memory := List Host.Cell

/-- The State Container (R18). -/
structure State where
  /-- FONT_BASE and FONT_DATA, fixed for the machine: no operation changes them (R12, log 3). -/
  cfg : Config
  /-- 4096 bytes (R39), as the canonical list of Machine/Memory.lean. -/
  mem : Memory
  /-- The address of the next opcode to fetch (R23). While exec runs it is still the address of the instruction (log 9). -/
  pc : Word
  /-- The index register, all 16 bits kept (R26). -/
  I : Word
  /-- V0 to VF (R20). -/
  V : Vector Byte 16
  /-- The return addresses, the top first; at most 16 (R27, log 5). -/
  stack : List Word
  /-- The delay timer (R29). -/
  DT : Byte
  /-- The sound timer (R29). -/
  ST : Byte
  /-- The framebuffer (R30). -/
  FB : Frame
  /-- "marks that the framebuffer changed since the last redraw" (R31). -/
  dirty : Bool
  /-- The keyboard snapshot, bit k for key k (R32, R33). -/
  KEY : Word
  /-- Running, AwaitingKey or Faulted (R34). -/
  mode : Mode
  /-- debug_enabled (R35). -/
  debugEnabled : Bool
  /-- debug_count, an unbounded natural number (R35). -/
  debugCount : Nat
  /-- MODEL's own: the byte r of the host's step(r), none when the caller of the step named none (R66, log 2). -/
  randIn : Option Byte
  /-- MODEL's own: how many random bytes were drawn, the argument of the free value (R37, log 2). -/
  draws : Nat
  deriving DecidableEq, Repr

/-- The state after initialize with the empty ROM, for any configuration (R38, R142; the ROM of length 0 is D13). Memory
lists nothing: every byte is as it is at reset, the font at FONT_BASE and 0 elsewhere. -/
def State.resetWith (c : Config) : State where
  cfg := c
  mem := []
  pc := 0x200
  I := 0
  V := Vector.replicate 16 0
  stack := []
  DT := 0
  ST := 0
  FB := Vector.replicate 32 0
  dirty := false
  KEY := 0
  mode := .running
  debugEnabled := false
  debugCount := 0
  randIn := none
  draws := 0

/-- The machine right after reset, with the default configuration of R12 (logs 3 and 6). -/
def State.reset : State := State.resetWith Config.standard

end Sys2Proof.Machine
end

