-- ==== Sys2Proof/Machine/Memory.lean ====
section
/-! DEFINITION. The memory of R39 as a canonical list: what an unlisted address reads as, reading and writing one byte,
writing a run of bytes, and the canonical form (log 4). -/

namespace Sys2Proof.Machine

/-- What an address reads as when memory does not list it: its byte after initialize with the empty ROM, the font at
FONT_BASE and 0 elsewhere (R38, R48, R142). -/
def resetByte (c : Config) (a : Nat) : Byte :=
  if c.fontBase.val ≤ a then (c.font[a - c.fontBase.val]?).getD 0 else 0

/-- mem[a]. -/
def Memory.read (c : Config) : Memory → Nat → Byte
  | [], a => resetByte c a
  | (b, w) :: m, a => if a = b then w else Memory.read c m a

/-- mem[a] <- v, keeping the list sorted and without entries equal to their reset value. -/
def Memory.write (c : Config) : Memory → Nat → Byte → Memory
  | [], a, v => if v = resetByte c a then [] else [(a, v)]
  | (b, w) :: m, a, v =>
    if a < b then (if v = resetByte c a then (b, w) :: m else (a, v) :: (b, w) :: m)
    else if a = b then (if v = resetByte c a then m else (a, v) :: m)
    else (b, w) :: Memory.write c m a v

/-- mem[a], mem[a + 1], … <- the bytes of the list, in rising order. -/
def Memory.writeRun (c : Config) : Memory → Nat → List Byte → Memory
  | m, _, [] => m
  | m, a, v :: vs => Memory.writeRun c (Memory.write c m a v) (a + 1) vs

/-- The canonical form from address lo on: addresses strictly rising inside the address space of R39, no entry equal to
its reset value. -/
def Memory.wfFrom (c : Config) : Nat → Memory → Bool
  | _, [] => true
  | lo, (a, v) :: m => decide (lo ≤ a) && decide (a < 4096) && v != resetByte c a && Memory.wfFrom c (a + 1) m

/-- The canonical form: equal memories are equal data. -/
def Memory.wf (c : Config) (m : Memory) : Bool := Memory.wfFrom c 0 m

end Sys2Proof.Machine
end

