-- ==== Sys2Proof/Machine/Ops.lean ====
section
/-! DEFINITION. The named operations over registers, stack, memory and mode that the meanings share (R15): the writes of
one field, the program counter (R23, R70), Push and Pop (R28), the memory accesses and their range check (R41, R42, R46),
fetch (R68, R69), the drawing of a random byte (R66), TAKING A FAULT (R73) and the return from one (R142, R143). -/

namespace Sys2Proof.Machine

/-- The outcome of a step. -/
abbrev Result := Host.Outcome State Fault Refusal

namespace State

/-! ### One register, one field -/

/-- V[r]. -/
def getV (s : State) (r : Reg) : Byte := s.V[r.val]
/-- V[r] <- v. -/
def setV (s : State) (r : Reg) (v : Byte) : State := { s with V := s.V.set r.val v r.isLt }
/-- All of V0 … VF at once. -/
def setAllV (s : State) (vs : Vector Byte 16) : State := { s with V := vs }
/-- pc <- target. -/
def setPc (s : State) (a : Word) : State := { s with pc := a }
/-- I <- v. -/
def setI (s : State) (v : Word) : State := { s with I := v }
/-- DT <- v. -/
def setDT (s : State) (v : Byte) : State := { s with DT := v }
/-- ST <- v. -/
def setST (s : State) (v : Byte) : State := { s with ST := v }
/-- A write of the framebuffer; it marks the frame dirty (R31). -/
def setFB (s : State) (fb : Frame) : State := { s with FB := fb, dirty := true }
/-- The stack, top first. -/
def setStack (s : State) (st : List Word) : State := { s with stack := st }
/-- mode <- m. -/
def setMode (s : State) (m : Mode) : State := { s with mode := m }

/-! ### The program counter (R23, R25, R70) -/

/-- pc_next, the post-fetch value (pc + 2) mod 2^16 (R70). -/
def pcNext (s : State) : Word := s.pc + 2
/-- The target of a taken skip, (pc_next + 2) mod 2^16 (R25). -/
def pcSkip (s : State) : Word := s.pcNext + 2
/-- pc <- pc_next. -/
def advance (s : State) : State := s.setPc s.pcNext
/-- "if condition holds, PC advances by an extra 2 beyond the normal post-fetch increment" (R70, R83). -/
def skipIf (s : State) (c : Bool) : State := if c then s.setPc s.pcSkip else s.advance

/-! ### Memory (R41 to R46) -/

/-- mem[a]. -/
def byteAt (s : State) (a : Nat) : Byte := Memory.read s.cfg s.mem a
/-- MemRead(a, 1): none outside the address space (R41). -/
def memRead (s : State) (a : Nat) : Option Byte := if a < 4096 then some (s.byteAt a) else none
/-- mem[a], mem[a + 1], … <- bs: the single-byte writes of Fx33 and Fx55, in the order of their pseudocode (R42, R43). -/
def storeRun (s : State) (a : Nat) (bs : List Byte) : State := { s with mem := Memory.writeRun s.cfg s.mem a bs }

/-! ### Fetch (R68, R69) -/

/-- The opcode at pc, mem[pc] ++ mem[pc + 1]; none if either byte lies outside memory, that is pc ≥ 0xFFF. -/
def fetch (s : State) : Option Word :=
  if s.pc.toNat < 0xFFF then some (opcodeOf (s.byteAt s.pc.toNat) (s.byteAt (s.pc.toNat + 1))) else none

/-! ### Taking a fault, and the return from one -/

/-- fail(S0, c) of R73: every field as at the start of the step, mode <- Faulted(c). It is applied to the state before the
step, so nothing of the faulting instruction survives; pc keeps its address. -/
def takeFault (s : State) (c : Fault) : State := s.setMode (.faulted c)

/-- The largest ROM, 4096 - 0x200 bytes (R142). -/
def maxRom : Nat := 3584

/-- Every field of the spec to its reset value (R142). The configuration is the machine's, and the count of random draws
goes on, since the generator is the host's (log 24). -/
def zeroed (s : State) : State := { State.resetWith s.cfg with draws := s.draws }

/-- initialize(rom) of R142, the only way out of Faulted mode (R121, R143): every field to its reset value, the ROM from
0x200 on; none is RomTooLarge, with the state unchanged. -/
def boot (s : State) (rom : List Byte) : Option State :=
  if rom.length ≤ maxRom then some (s.zeroed.storeRun Config.programStart rom) else none

/-! ### Stack (R28) -/

/-- Push(v): a fault if 16 entries are held. -/
def push (s : State) (v : Word) : Except Fault State :=
  if s.stack.length < Config.stackDepth then .ok (s.setStack (v :: s.stack)) else .error .stackOverflow

/-- Pop(): the top value and the state without it; a fault if the stack is empty. -/
def pop (s : State) : Except Fault (Word × State) :=
  match s.stack with
  | [] => .error .stackUnderflow
  | v :: st => .ok (v, s.setStack st)

/-! ### The random byte (R66, R101) -/

/-- r: the byte that the host passed to this step, or else a free value (log 2). -/
def randomByte (s : State) : Byte := s.randIn.getD (Config.randomByte s.draws)

/-- r was used: the next draw is another byte. -/
def drawn (s : State) : State := { s with randIn := none, draws := s.draws + 1 }

/-! ### The debug counter (R78) -/

/-- One instruction executed without fault: count it if debug is enabled. -/
def countInstr (s : State) : State :=
  match s.mode with
  | .faulted _ => s
  | .running | .awaitingKey _ _ => if s.debugEnabled then { s with debugCount := s.debugCount + 1 } else s

end State

/-- "Each instruction that accesses memory checks every address it will touch before it changes any state" (R46): does the
range of len bytes at a lie in memory? The empty range does, wherever it is (R110, n = 0). -/
def inRange (a len : Nat) : Bool := len == 0 || decide (a + len ≤ 4096)

/-- Go on to t if the range of len bytes at a lies in memory, and otherwise take MemoryOutOfBounds in s. -/
def guardRange (s : State) (a len : Nat) (t : State) : Result :=
  if inRange a len then .next t else .next (s.takeFault .memoryOutOfBounds)

/-- After a Running step's instruction: the debug counter (R67, R78). -/
def retire : Result → Result
  | .next t => .next t.countInstr
  | .fault c => .fault c
  | .refused q => .refused q

/-- An unknown opcode "executes as a no-op: pc <- pc_next and nothing else" (R62, R72). -/
def execUnknown (s : State) : Result := .next s.advance

end Sys2Proof.Machine
end

