-- ==== Sys2Proof/Machine/Flags.lean ====
section
/-! DEFINITION. Every value that an instruction writes to VF as its flag (R21, R96 to R100, R110), and the two orders in
which the flag and the result are written (R89, D8). -/

namespace Sys2Proof.Machine

/-- VF, the implicit flags register (R21). -/
@[simp, reducible] def VF : Reg := 15

/-- A flag as a register value, 1 or 0. -/
def flagByte (b : Bool) : Byte := if b then 1 else 0

/-- 8xy4: 1 if a + b > 255, else 0 (R96). -/
def carryFlag (a b : Byte) : Byte := flagByte (decide (a.toNat + b.toNat > 255))

/-- 8xy5 and 8xy7: 1 if a > b strictly, else 0 (R97, R99, W1). -/
def greaterFlag (a b : Byte) : Byte := flagByte (decide (a.toNat > b.toNat))

/-- 8xy6: the bit shifted out, a & 1 (R98). -/
def shrFlag (a : Byte) : Byte := a &&& 1

/-- 8xyE: the bit shifted out, (a >> 7) & 1 (R100). -/
def shlFlag (a : Byte) : Byte := (a >>> 7) &&& 1

/-- Dxyn: 1 if a pixel went from set to unset, else 0 (R110). -/
def collisionFlag (erased : Bool) : Byte := flagByte erased

/-- The order of 8xy4: the result, then the flag; the flag stays when x = F (R89). -/
def resultThenFlag (s : State) (x : Reg) (result flag : Byte) : State := (s.setV x result).setV VF flag

/-- The order of 8xy5, 8xy6, 8xy7 and 8xyE: the flag, then the result; the result stays when x = F (R89). -/
def flagThenResult (s : State) (x : Reg) (flag result : Byte) : State := (s.setV VF flag).setV x result

end Sys2Proof.Machine
end

