-- ==== Sys2Proof/Machine/Operands.lean ====
section
/-! DEFINITION. The operand forms of the instructions: immediates and addresses, zero-extended (R58), the computed jump
target (R87), the glyph address (R104), the key that Vx names (R115), the register block of Fx55 and Fx65 (R107, R108), the
decimal digits of Fx33 (R106), the sprite origin and bits of Dxyn (R110, R111). -/

namespace Sys2Proof.Machine

/-- zext_16(nnn) (R58). -/
def addrOf (nnn : Addr) : Word := nnn.setWidth 16

/-- (zext_16(nnn) + zext_16(V[0])) mod 2^16, always V0, not masked to 12 bits (R87, D6). -/
def addrPlusV0 (s : State) (nnn : Addr) : Word := addrOf nnn + (s.getV 0).setWidth 16

/-- I + V[x] mod 2^16 (R103). -/
def indexPlusV (s : State) (x : Reg) : Word := s.I + (s.getV x).setWidth 16

/-- The low nibble of V[x]. -/
def lowNibble (s : State) (x : Reg) : Fin 16 := ((s.getV x).extractLsb' 0 4).toFin

/-- FONT_BASE + 5 * (V[x] & 0xF) (R104). -/
def glyphAddr (s : State) (x : Reg) : Word := BitVec.ofNat 16 (s.cfg.fontBase.val + 5 * (lowNibble s x).val)

/-- KEY[k]. -/
def keyDown (s : State) (k : Fin 16) : Bool := s.KEY.getLsbD k.val

/-- "if KEY[k] = 1" for k = V[x] & 0xF (R115, D10). -/
def namedKeyDown (s : State) (x : Reg) : Bool := keyDown s (lowNibble s x)

/-- The address held in I, an exact natural number (R46). -/
def indexAddr (s : State) : Nat := s.I.toNat

/-- The hundreds, tens and ones of a byte (R106). -/
def decimalDigits (a : Byte) : List Byte := [a / 100, (a / 10) % 10, a % 10]

/-- V0 … Vx, in order (R107). -/
def regsUpTo (s : State) (x : Reg) : List Byte := s.V.toList.take (x.val + 1)

/-- The registers after V[i] <- mem[I + i] for i in 0..k-1, in that order (R108). -/
def regsLoadedBelow (s : State) : Nat → Vector Byte 16
  | 0 => s.V
  | k + 1 => (regsLoadedBelow s k).setIfInBounds k (s.byteAt (indexAddr s + k))

/-- The registers after V[i] <- mem[I + i] for i in 0..x (R108). -/
def regsLoaded (s : State) (x : Reg) : Vector Byte 16 := regsLoadedBelow s (x.val + 1)

/-- (I + x + 1) mod 2^16 (R107, R108, D25). -/
def indexAfterBlock (s : State) (x : Reg) : Word := s.I + BitVec.ofNat 16 (x.val + 1)

/-- Bit 7 of a sprite byte is column 0, bit 0 is column 7 (R111). -/
def spriteBit (b : Byte) (col : Nat) : Bool := b.getLsbD (7 - col)

/-- screen_x = (col + vx) mod 64 (R110). -/
def screenX (vx : Byte) (col : Nat) : Fin 64 := Fin.ofNat 64 (col + vx.toNat)

/-- screen_y = (row + vy) mod 32 (R110). -/
def screenY (vy : Byte) (row : Nat) : Fin 32 := Fin.ofNat 32 (row + vy.toNat)

end Sys2Proof.Machine
end

