-- ==== Sys2Proof/Machine/Alu.lean ====
section
/-! DEFINITION. Register loads, arithmetic, logic and the random byte (R88 to R101). All sources are read in the state
before any write (R15, D8); all arithmetic wraps modulo 256 (R88); every instruction leaves pc at pc_next. -/

namespace Sys2Proof.Machine

/-- LD Vx, kk (R90). -/
def execLdVB (x : Reg) (kk : Byte) (s : State) : Result := .next (s.setV x kk).advance

/-- ADD Vx, kk: no flag (R91). -/
def execAddVB (x : Reg) (kk : Byte) (s : State) : Result := .next (s.setV x (s.getV x + kk)).advance

/-- LD Vx, Vy (R92). -/
def execLdVV (x y : Reg) (s : State) : Result := .next (s.setV x (s.getV y)).advance

/-- OR Vx, Vy: VF is not reset (R93). -/
def execOrVV (x y : Reg) (s : State) : Result := .next (s.setV x (s.getV x ||| s.getV y)).advance

/-- AND Vx, Vy: VF is not reset (R94). -/
def execAndVV (x y : Reg) (s : State) : Result := .next (s.setV x (s.getV x &&& s.getV y)).advance

/-- XOR Vx, Vy: VF is not reset (R95). -/
def execXorVV (x y : Reg) (s : State) : Result := .next (s.setV x (s.getV x ^^^ s.getV y)).advance

/-- ADD Vx, Vy: the sum, then VF <- carry (R96). -/
def execAddVV (x y : Reg) (s : State) : Result :=
  .next (resultThenFlag s x (s.getV x + s.getV y) (carryFlag (s.getV x) (s.getV y))).advance

/-- SUB Vx, Vy: VF <- 1 if Vx > Vy else 0, then Vx <- Vx - Vy (R97). -/
def execSubVV (x y : Reg) (s : State) : Result :=
  .next (flagThenResult s x (greaterFlag (s.getV x) (s.getV y)) (s.getV x - s.getV y)).advance

/-- SHR Vx: Vy is not read (R98). -/
def execShr (x _y : Reg) (s : State) : Result :=
  .next (flagThenResult s x (shrFlag (s.getV x)) (s.getV x >>> 1)).advance

/-- SUBN Vx, Vy: VF <- 1 if Vy > Vx else 0, then Vx <- Vy - Vx (R99). -/
def execSubn (x y : Reg) (s : State) : Result :=
  .next (flagThenResult s x (greaterFlag (s.getV y) (s.getV x)) (s.getV y - s.getV x)).advance

/-- SHL Vx: Vy is not read (R100). -/
def execShl (x _y : Reg) (s : State) : Result :=
  .next (flagThenResult s x (shlFlag (s.getV x)) (s.getV x <<< 1)).advance

/-- RND Vx, kk: V[x] <- r & kk, r the step's random byte (R101, log 2). -/
def execRnd (x : Reg) (kk : Byte) (s : State) : Result := .next (s.drawn.setV x (s.randomByte &&& kk)).advance

end Sys2Proof.Machine
end

