-- ==== Sys2Proof/Machine/Control.lean ====
section
/-! DEFINITION. Control flow (R79 to R87). The state holds the instruction's address in pc; pc_next is State.pcNext. -/

namespace Sys2Proof.Machine

/-- SYS nnn: "ignored (legacy machine-code call, no-op)" (R79). -/
def execSys (_nnn : Addr) (s : State) : Result := .next s.advance

/-- RET: t <- Pop(); pc <- t (R80). -/
def execRet (s : State) : Result :=
  match s.pop with
  | .ok (t, s') => .next (s'.setPc t)
  | .error c => .next (s.takeFault c)

/-- JP nnn (R81). -/
def execJp (nnn : Addr) (s : State) : Result := .next (s.setPc (addrOf nnn))

/-- CALL nnn: Push(pc_next); pc <- nnn (R82). -/
def execCall (nnn : Addr) (s : State) : Result :=
  match s.push s.pcNext with
  | .ok s' => .next (s'.setPc (addrOf nnn))
  | .error c => .next (s.takeFault c)

/-- SE Vx, kk (R83). -/
def execSeVB (x : Reg) (kk : Byte) (s : State) : Result := .next (s.skipIf (s.getV x == kk))

/-- SNE Vx, kk (R84). -/
def execSneVB (x : Reg) (kk : Byte) (s : State) : Result := .next (s.skipIf (s.getV x != kk))

/-- SE Vx, Vy (R85). -/
def execSeVV (x y : Reg) (s : State) : Result := .next (s.skipIf (s.getV x == s.getV y))

/-- SNE Vx, Vy (R86). -/
def execSneVV (x y : Reg) (s : State) : Result := .next (s.skipIf (s.getV x != s.getV y))

/-- JP V0, nnn (R87). -/
def execJpV0 (nnn : Addr) (s : State) : Result := .next (s.setPc (addrPlusV0 s nnn))

end Sys2Proof.Machine
end

