-- ==== Sys2Proof/Machine/Display.lean ====
section
/-! DEFINITION. Clearing the display and the sprite blit with its erasure flag (R109 to R111). -/

namespace Sys2Proof.Machine

/-- What a draw works on: the frame so far, and whether a pixel went from set to unset. -/
structure Canvas where
  fb : Frame
  erased : Bool
  deriving DecidableEq, Repr

/-- Pixel (x, y) of a frame, FB[y * 64 + x] (R30). -/
def Frame.pixel (fb : Frame) (x : Fin 64) (y : Fin 32) : Bool := fb[y.val].getLsbD x.val

/-- Pixel (x, y) of the machine. -/
def State.pixel (s : State) (x : Fin 64) (y : Fin 32) : Bool := Frame.pixel s.FB x y

/-- The frame with pixel (x, y) inverted. -/
def Frame.flip (fb : Frame) (x : Fin 64) (y : Fin 32) : Frame :=
  fb.set y.val (fb[y.val] ^^^ BitVec.twoPow 64 x.val) y.isLt

/-- The inner body of R110's loops: if bit = 1 and FB[idx] = 1 then collision <- 1; FB[idx] <- FB[idx] ^ bit. -/
def Canvas.plot (c : Canvas) (x : Fin 64) (y : Fin 32) (bit : Bool) : Canvas :=
  if bit then { fb := Frame.flip c.fb x y, erased := c.erased || Frame.pixel c.fb x y } else c

/-- Columns 0 … k - 1 of one sprite row. -/
def Canvas.drawCols (c : Canvas) (vx vy : Byte) (row : Nat) (b : Byte) : Nat → Canvas
  | 0 => c
  | k + 1 => (c.drawCols vx vy row b k).plot (screenX vx k) (screenY vy row) (spriteBit b k)

/-- Rows 0 … k - 1 of a sprite whose row `row` is the byte `rows row`. -/
def Canvas.drawRows (c : Canvas) (vx vy : Byte) (sprite : List Byte) : Nat → Canvas
  | 0 => c
  | k + 1 => (c.drawRows vx vy sprite k).drawCols vx vy k (sprite.getD k 0) 8

/-- The n bytes of the sprite, mem[I], mem[I + 1], … (R110). -/
def spriteBytes (s : State) (n : Fin 16) : List Byte := (List.range n.val).map fun k => s.byteAt (indexAddr s + k)

/-- The frame after the draw, and whether it erased a pixel. -/
def drawnCanvas (s : State) (x y : Reg) (n : Fin 16) : Canvas :=
  Canvas.drawRows { fb := s.FB, erased := false } (s.getV x) (s.getV y) (spriteBytes s n) n.val

/-- CLS: all pixels 0, dirty <- 1 (R109). -/
def execCls (s : State) : Result := .next (s.setFB (Vector.replicate 32 0)).advance

/-- DRW Vx, Vy, n: the coordinates are read before VF is written; dirty <- 1 on every draw; I is not changed (R110). -/
def execDrw (x y : Reg) (n : Fin 16) (s : State) : Result :=
  let c := drawnCanvas s x y n
  guardRange s (indexAddr s) n.val ((s.setFB c.fb).setV VF (collisionFlag c.erased)).advance

end Sys2Proof.Machine
end

