-- ==== Sys2Proof/Machine/TimerInput.lean ====
section
/-! DEFINITION. Timer and keyboard instructions (R112 to R117), and the step of the awaiting-key state (R75). -/

namespace Sys2Proof.Machine

/-- LD Vx, DT (R112). -/
def execLdVDT (x : Reg) (s : State) : Result := .next (s.setV x s.DT).advance

/-- LD DT, Vx (R113). -/
def execLdDTV (x : Reg) (s : State) : Result := .next (s.setDT (s.getV x)).advance

/-- LD ST, Vx (R114). -/
def execLdSTV (x : Reg) (s : State) : Result := .next (s.setST (s.getV x)).advance

/-- SKP Vx (R115). -/
def execSkp (x : Reg) (s : State) : Result := .next (s.skipIf (namedKeyDown s x))

/-- SKNP Vx (R116). -/
def execSknp (x : Reg) (s : State) : Result := .next (s.skipIf (!namedKeyDown s x))

/-- LD Vx, K, the step that executes the opcode: mode <- AwaitingKey(x, KEY), and pc stays at this instruction (R117). -/
def execLdVK (x : Reg) (s : State) : Result := .next ((s.setMode (.awaitingKey x s.KEY)).setPc (s.pcNext - 2))

/-- The keys that went down since the snapshot: KEY[k] = 1 and base[k] = 0 (R75). -/
def newKeys (s : State) (base : Word) : Word := s.KEY &&& ~~~base

/-- The least element of a set of keys (R75, D11). -/
def leastKey (keys : Word) : Option (Fin 16) := (List.finRange 16).find? fun k => keys.getLsbD k.val

/-- await_step(x, base) of R75: with no key-down transition the snapshot seen is remembered; otherwise the least new key is
stored, pc leaves the Fx0A, and the core runs again. The debug counter does not count it (D20). -/
def awaitStep (x : Reg) (base : Word) (s : State) : State :=
  match leastKey (newKeys s base) with
  | none => s.setMode (.awaitingKey x s.KEY)
  | some k => ((s.setV x (BitVec.ofNat 8 k.val)).setPc (s.pc + 2)).setMode .running

end Sys2Proof.Machine
end

