-- ==== Sys2Proof/Machine/Transfer.lean ====
section
/-! DEFINITION. The index register, the font address, the BCD store and the block store and load (R102 to R108). The range
is checked before anything changes (R46, D7). -/

namespace Sys2Proof.Machine

/-- LD I, nnn (R102). -/
def execLdIA (nnn : Addr) (s : State) : Result := .next (s.setI (addrOf nnn)).advance

/-- ADD I, Vx: VF is not written (R103). -/
def execAddIV (x : Reg) (s : State) : Result := .next (s.setI (indexPlusV s x)).advance

/-- LD F, Vx (R104). -/
def execLdFV (x : Reg) (s : State) : Result := .next (s.setI (glyphAddr s x)).advance

/-- LD B, Vx: three decimal digits to I, I + 1, I + 2; I is not changed (R106). -/
def execLdBV (x : Reg) (s : State) : Result :=
  guardRange s (indexAddr s) 3 (s.storeRun (indexAddr s) (decimalDigits (s.getV x))).advance

/-- LD [I], Vx: V0 … Vx to memory at I, then I <- I + x + 1 (R107). -/
def execLdMV (x : Reg) (s : State) : Result :=
  guardRange s (indexAddr s) (x.val + 1)
    ((s.storeRun (indexAddr s) (regsUpTo s x)).setI (indexAfterBlock s x)).advance

/-- LD Vx, [I]: memory at I to V0 … Vx, then I <- I + x + 1 (R108). -/
def execLdVM (x : Reg) (s : State) : Result :=
  guardRange s (indexAddr s) (x.val + 1) ((s.setAllV (regsLoaded s x)).setI (indexAfterBlock s x)).advance

end Sys2Proof.Machine
end

