-- ==== Sys2Proof/Machine/Step.lean ====
section
/-! DEFINITION. One step of the core (R66, R67): the mode decides; a Running step fetches, decodes, dispatches, executes and
counts. And where a word must stand to be the next instruction. -/

namespace Sys2Proof.Machine

/-- step(r) of R66, with r the state's `randomByte`. In mode Faulted it changes nothing and answers the cause (R74); in
mode AwaitingKey it runs await_step (R75); in mode Running it runs one instruction (R67), and a fault that the fetch or the
instruction raises is taken: the next state has mode Faulted (R73, log 1). -/
def step (s : State) : Host.Outcome State Fault Refusal :=
  match s.mode with
  | .faulted c => .fault c
  | .awaitingKey x base => .next (awaitStep x base s)
  | .running =>
    match s.fetch with
    | none => .next (s.takeFault .fetchOutOfBounds)
    | some w =>
      match decodeWord w with
      | .ok i => retire (exec i s)
      | .error _ => retire (execUnknown s)

/-- s with the instruction w (nbits bits, numbered as the opcode table numbers them) stored where step fetches next: the two
bytes at pc, big-endian (R44), the mode Running, and pc at 0x200 if no instruction can be fetched at pc (log 10). -/
def State.withFetchWord (s : State) (nbits w : Nat) : State :=
  let t := if s.pc.toNat < 0xFFF then s else s.setPc 0x200
  (t.setMode .running).storeRun t.pc.toNat [highByte (tableWord nbits w), lowByte (tableWord nbits w)]

end Sys2Proof.Machine
end

