-- ==== Sys2Proof/Machine/HostOps.lean ====
section
/-! DEFINITION. The eight host operations of R126, each one atomic transaction (R47), and the session that refuses every
other operation before the first successful initialize (R19, D26). -/

namespace Sys2Proof.Machine

/-- The operations of R126 with their inputs. -/
inductive HostOp where
  | init (rom : List Byte)          -- initialize(rom)
  | step (r : Byte)                 -- step(r)
  | advanceTimers
  | setKeyState (keys : Word)
  | readFramebuffer
  | enableDebug (c : Nat)
  | readRegisters
  | readMemory (a : Nat)
  deriving DecidableEq, Repr

/-- What read_registers returns (R134). -/
structure RegisterView where
  V : Vector Byte 16
  I : Word
  pc : Word
  /-- The stack contents, the top first. -/
  stack : List Word
  depth : Nat
  DT : Byte
  ST : Byte
  mode : Mode
  deriving DecidableEq, Repr

/-- What an operation gives back (the column "result" of R126). -/
inductive Reply where
  | nothing
  | ok
  | fault (cause : Fault)
  | romTooLarge
  | framebuffer (fb : Frame) (dirty : Bool)
  | registers (v : RegisterView)
  | byte (b : Byte)
  | addressError
  deriving DecidableEq, Repr

/-- The codes of R118 (D4). -/
def Fault.code : Fault → Nat
  | .stackOverflow => 1
  | .stackUnderflow => 2
  | .fetchOutOfBounds => 3
  | .memoryOutOfBounds => 4

/-- The error code of a reply, RomTooLarge being 5 (R118, D4). -/
def Reply.errorCode : Reply → Option Nat
  | .fault c => some c.code
  | .romTooLarge => some 5
  | .nothing | .ok | .framebuffer _ _ | .registers _ | .byte _ | .addressError => none

/-- if DT > 0: DT <- DT - 1 (R128). -/
def tick (t : Byte) : Byte := if t = 0 then 0 else t - 1

/-- advance_timers(), in every mode (R128, D21). -/
def State.advanceTimers (s : State) : State := (s.setDT (tick s.DT)).setST (tick s.ST)

/-- set_key_state(keys), in every mode (R131). -/
def State.setKeyState (s : State) (keys : Word) : State := { s with KEY := keys }

/-- The state after read_framebuffer: "consumed once per redraw" (R132). -/
def State.redrawn (s : State) : State := { s with dirty := false }

/-- enable_debug(c) (R133). -/
def State.enableDebug (s : State) (c : Nat) : State := { s with debugEnabled := true, debugCount := c }

/-- read_registers() (R134). -/
def State.registerView (s : State) : RegisterView :=
  { V := s.V, I := s.I, pc := s.pc, stack := s.stack, depth := s.stack.length, DT := s.DT, ST := s.ST, mode := s.mode }

/-- FB[idx] with idx = y * 64 + x, the index of R30. -/
def State.fbIndex (s : State) (idx : Fin 2048) : Bool :=
  s.pixel (Fin.ofNat 64 idx.val) (Fin.ofNat 32 (idx.val / 64))

/-- The host passes r to the step about to run (R66). -/
def State.supply (s : State) (r : Byte) : State := { s with randIn := some r }

/-- r belongs to one step only: what the step left of it is gone (R66). -/
def State.unsupply (s : State) : State := { s with randIn := none }

/-- What step(r) returns, once its state is known: Fault(cause) exactly if the core is now Faulted (R73, R119). -/
def stepReply (t : State) : Reply :=
  match t.mode with
  | .faulted c => .fault c
  | .running | .awaitingKey _ _ => .ok

/-- step(r) as the host sees it: the reply and the state after it. In mode Faulted nothing changes (R74). -/
def hostStep (r : Byte) (s : State) : Host.Outcome (Reply × State) Fault Refusal :=
  match step (s.supply r) with
  | .next t => .next (stepReply t, t.unsupply)
  | .fault c => .next (.fault c, s)
  | .refused q => .refused q

/-- read_memory(a): a byte, or an error outside the address space (R135). -/
def readMemoryReply (s : State) (a : Nat) : Reply :=
  match s.memRead a with
  | some b => .byte b
  | none => .addressError

/-- initialize(rom): Ok, or RomTooLarge with the state unchanged (R142). -/
def hostInit (rom : List Byte) (s : State) : Reply × State :=
  match s.boot rom with
  | some t => (.ok, t)
  | none => (.romTooLarge, s)

/-- One operation of the host on an initialized core. -/
def hostOp (op : HostOp) (s : State) : Host.Outcome (Reply × State) Fault Refusal :=
  match op with
  | .init rom => .next (hostInit rom s)
  | .step r => hostStep r s
  | .advanceTimers => .next (.nothing, s.advanceTimers)
  | .setKeyState keys => .next (.nothing, s.setKeyState keys)
  | .readFramebuffer => .next (.framebuffer s.FB s.dirty, s.redrawn)
  | .enableDebug c => .next (.nothing, s.enableDebug c)
  | .readRegisters => .next (.registers s.registerView, s)
  | .readMemory a => .next (readMemoryReply s a, s)

/-- A core as the host holds it: before any successful initialize it has a configuration and no state (R19). -/
inductive Session where
  | cold (c : Config)
  | live (s : State)
  deriving DecidableEq, Repr

/-- The first initialize, on a core that has no state: RomTooLarge leaves it so (R142). -/
def coldInit (rom : List Byte) (c : Config) : Reply × Session :=
  match (State.resetWith c).boot rom with
  | some t => (.ok, .live t)
  | none => (.romTooLarge, .cold c)

/-- One operation of the host on a core in any condition; before initialize every other operation is refused (D26). -/
def sessionOp (op : HostOp) : Session → Host.Outcome (Reply × Session) Fault Refusal
  | .cold c =>
    match op with
    | .init rom => .next (coldInit rom c)
    | .step _ | .advanceTimers | .setKeyState _ | .readFramebuffer | .enableDebug _ | .readRegisters
    | .readMemory _ => .refused .beforeInitialize
  | .live s =>
    match hostOp op s with
    | .next (r, t) => .next (r, .live t)
    | .fault c => .fault c
    | .refused q => .refused q

end Sys2Proof.Machine
end

