-- ==== Sys2Proof/Safety.lean ====
section
/-! DEFINITION. The words in which claims about the machine are stated: the parts of a state and what it means to leave a
part unchanged; the instruction that the next step runs; the range of memory that an instruction touches; when a fault is
justified; and the invariant of every run. -/

namespace Sys2Proof.Machine

/-! ### Frames -/

/-- One part of the state: a register, a byte of memory, a pixel, … Together the parts are the whole state. -/
inductive Component where
  | pc | index | stack | delayTimer | soundTimer | dirty | keys | mode
  | reg (r : Reg)
  | mem (a : Nat)
  | pixel (x : Fin 64) (y : Fin 32)
  | debugEnabled | debugCount
  | config
  | randIn | draws
  deriving DecidableEq, Repr

/-- The part has the same contents in both states; memory is compared through the reading of one byte. -/
def Component.same (s t : State) : Component → Prop
  | .pc => t.pc = s.pc
  | .index => t.I = s.I
  | .stack => t.stack = s.stack
  | .delayTimer => t.DT = s.DT
  | .soundTimer => t.ST = s.ST
  | .dirty => t.dirty = s.dirty
  | .keys => t.KEY = s.KEY
  | .mode => t.mode = s.mode
  | .reg r => t.getV r = s.getV r
  | .mem a => t.byteAt a = s.byteAt a
  | .pixel x y => t.pixel x y = s.pixel x y
  | .debugEnabled => t.debugEnabled = s.debugEnabled
  | .debugCount => t.debugCount = s.debugCount
  | .config => t.cfg = s.cfg
  | .randIn => t.randIn = s.randIn
  | .draws => t.draws = s.draws

/-- From s to t nothing changed but, possibly, the parts of which `may` holds. -/
def UnchangedExcept (may : Component → Prop) (s t : State) : Prop := ∀ c, ¬ may c → Component.same s t c

/-- pc moved on by n bytes, modulo 2^16 (R25, R70). -/
def PcAdvances (n : Nat) (s t : State) : Prop := t.pc.toNat = (s.pc.toNat + n) % 65536

/-! ### What the next step runs -/

/-- The instruction at pc: none if nothing can be fetched or the word is an unknown opcode. -/
def State.nextInstr (s : State) : Option Instr :=
  match s.fetch with
  | none => none
  | some w => (decodeWord w).toOption

/-- The memory that an instruction touches as data, (first address, length), the range of R46: three bytes for Fx33
(R106), x + 1 for Fx55 and Fx65 (R107, R108), n for Dxyn (R110), none for the others. -/
def dataRange (i : Instr) (s : State) : Nat × Nat :=
  match i with
  | .ldBV _ => (indexAddr s, 3)
  | .ldMV x => (indexAddr s, x.val + 1)
  | .ldVM x => (indexAddr s, x.val + 1)
  | .drw _ _ n => (indexAddr s, n.val)
  | .cls | .ret | .sys _ | .jp _ | .call _ | .seVB _ _ | .sneVB _ _ | .seVV _ _ | .ldVB _ _ | .addVB _ _ | .ldVV _ _
  | .orVV _ _ | .andVV _ _ | .xorVV _ _ | .addVV _ _ | .subVV _ _ | .shr _ _ | .subn _ _ | .shl _ _ | .sneVV _ _
  | .ldIA _ | .jpV0 _ | .rnd _ _ | .skp _ | .sknp _ | .ldVDT _ | .ldVK _ | .ldDTV _ | .ldSTV _ | .addIV _
  | .ldFV _ => (0, 0)

/-- The state at which the cause is raised (the column "raised by" of R118). -/
def FaultJustified (s : State) : Fault → Prop
  | .stackOverflow => s.stack.length = 16 ∧ ∃ nnn, s.nextInstr = some (.call nnn)
  | .stackUnderflow => s.stack = [] ∧ s.nextInstr = some .ret
  | .fetchOutOfBounds => 0xFFF ≤ s.pc.toNat
  | .memoryOutOfBounds =>
    ∃ i, s.nextInstr = some i ∧ 0 < (dataRange i s).2 ∧ 4096 < (dataRange i s).1 + (dataRange i s).2

/-! ### The invariant -/

/-- What holds of every state that a run meets: at reset, after every step and after every host operation. -/
structure Inv (s : State) : Prop where
  /-- Memory is in its canonical form, inside the address space of R39. -/
  memory : Memory.wf s.cfg s.mem = true
  /-- 0 ≤ d ≤ 16 (R27). -/
  depth : s.stack.length ≤ 16
  /-- Every return address is the post-fetch pc of a CALL that could be fetched (R82, R69). -/
  returns : ∀ v ∈ s.stack, v.toNat ≤ 0x1000
  /-- The largest value any instruction leaves in pc is that of Bnnn (R87). -/
  pcBound : s.pc.toNat ≤ 0x10FE
  /-- While a key is awaited pc is at the Fx0A that asked for it (R75 "pc held the Fx0A address", R117). -/
  waiting : ∀ x base, s.mode = .awaitingKey x base → s.nextInstr = some (.ldVK x)
  /-- A Faulted core still shows why: the state is as it stood before the faulting step (R73, R120). -/
  fault : ∀ c, s.mode = .faulted c → FaultJustified s c

/-! ### Screen geometry -/

/-- The source pixel (row, col) of a sprite of n rows at origin (vx, vy) lands on screen pixel (px, py) (R110). -/
def LandsOn (vx vy : Byte) (n : Fin 16) (row col : Nat) (px : Fin 64) (py : Fin 32) : Prop :=
  row < n.val ∧ col < 8 ∧ px.val = (col + vx.toNat) % 64 ∧ py.val = (row + vy.toNat) % 32

/-- The sprite of n rows at I has a 1 bit that lands on screen pixel (px, py). -/
def SpriteSets (s : State) (vx vy : Byte) (n : Fin 16) (px : Fin 64) (py : Fin 32) : Prop :=
  ∃ row col, LandsOn vx vy n row col px py ∧ (s.byteAt (s.I.toNat + row)).getLsbD (7 - col) = true

end Sys2Proof.Machine
end

