-- ==== Sys2Proof/Certificates/Slice0/Obligations.lean ====
section
/-! DEFINITION. The statements for the provers, from the numbered rules of spec/. Where a docstring says "the spec's decision
D<n>" or "general knowledge G<n>", the spec marks that clause as its own choice, and the statement's basis is derived. -/

open Sys2Proof Sys2Proof.Machine

/-! ## Encoding -/

/-- R56: the fields of an opcode, as numbers. -/
def Obligations.FieldsSplitOpcode : Prop :=
  ∀ w : Word,
    (fieldD1 w).toNat = w.toNat / 4096 ∧ (fieldX w).val = w.toNat / 256 % 16 ∧ (fieldY w).val = w.toNat / 16 % 16 ∧
      (fieldN w).val = w.toNat % 16 ∧ (fieldNNN w).toNat = w.toNat % 4096 ∧ (fieldKK w).toNat = w.toNat % 256

/-- One word of each family, written out from the patterns of R60, and the words of R65 and V-D13. -/
def Obligations.SampleWordsDecode : Prop :=
  decode [0x00, 0xE0] = .ok (.cls, []) ∧ decode [0x00, 0xEE, 0x12] = .ok (.ret, [0x12]) ∧
    decode [0x01, 0x23] = .ok (.sys 0x123, []) ∧ decode [0x42, 0x11] = .ok (.sneVB 2 0x11, []) ∧
    decode [0x83, 0x44] = .ok (.addVV 3 4, []) ∧ decode [0x83, 0x76] = .ok (.shr 3 7, []) ∧
    decode [0xA3, 0x00] = .ok (.ldIA 0x300, []) ∧ decode [0xC3, 0x0F] = .ok (.rnd 3 0x0F, []) ∧
    decode [0xD7, 0xA3] = .ok (.drw 7 0xA 3, []) ∧ decode [0xE0, 0xA1] = .ok (.sknp 0, []) ∧
    decode [0xF3, 0x0A] = .ok (.ldVK 3, []) ∧ decode [0xF2, 0x55] = .ok (.ldMV 2, []) ∧
    decode [0x51, 0x21] = .error (.unknownOpcode 0x5121) ∧ decode [0xF2] = .error .truncated

/-- Decoding the bytes of a well-formed instruction gives it back, and the bytes after it. -/
def Obligations.DecodeEncodeRoundTrip : Prop :=
  ∀ (i : Instr) (rest : List Byte), i.wf = true → decode (encode i ++ rest) = .ok (i, rest)

/-- A word that decodes is the word of the well-formed instruction it decodes to: no word has two meanings (R61). -/
def Obligations.DecodedWordReencodes : Prop :=
  ∀ (w : Word) (i : Instr), decodeWord w = .ok i → i.wf = true ∧ encodeWord i = w

/-- R62 (the spec's decision D17): the unknown opcodes are exactly these words. -/
def Obligations.UnknownOpcodesExactly : Prop :=
  ∀ w : Word,
    decodeWord w = .error (.unknownOpcode w) ↔
      ((w.toNat / 4096 = 0x5 ∨ w.toNat / 4096 = 0x9) ∧ w.toNat % 16 ≠ 0) ∨
      (w.toNat / 4096 = 0x8 ∧ w.toNat % 16 ∈ [0x8, 0x9, 0xA, 0xB, 0xC, 0xD, 0xF]) ∨
      (w.toNat / 4096 = 0xE ∧ w.toNat % 256 ∉ [0x9E, 0xA1]) ∨
      (w.toNat / 4096 = 0xF ∧ w.toNat % 256 ∉ [0x07, 0x0A, 0x15, 0x18, 0x1E, 0x29, 0x33, 0x55, 0x65])

/-! ## The step -/

/-- R68: the two bytes at pc, the first the more significant. -/
def Obligations.FetchReadsTwoBytesBigEndian : Prop :=
  ∀ s : State, s.pc.toNat + 1 < 4096 →
    ∃ w, s.fetch = some w ∧ w.toNat / 256 = (s.byteAt s.pc.toNat).toNat ∧
      w.toNat % 256 = (s.byteAt (s.pc.toNat + 1)).toNat

/-- R66, R67, R71, R72, R78: a Running step decodes the bytes at pc and is exec of what they decode to; it counts the
instruction if debug is enabled and no fault was taken, and adds nothing else. -/
def Obligations.StepRunsDecodedInstruction : Prop :=
  ∀ (s t : State) (i : Instr), s.mode = .running → s.pc.toNat + 1 < 4096 →
    decode [s.byteAt s.pc.toNat, s.byteAt (s.pc.toNat + 1)] = .ok (i, []) → exec i s = .next t →
    (t.debugEnabled = true → (∀ c, t.mode ≠ .faulted c) → step s = .next { t with debugCount := t.debugCount + 1 }) ∧
      (t.debugEnabled = false → step s = .next t) ∧ (∀ c, t.mode = .faulted c → step s = .next t)

/-- An instruction placed with withFetchWord is the one that the next step runs (log 10), in any state whose memory is
canonical (Inv.memory). -/
def Obligations.PlacedInstructionIsNext : Prop :=
  ∀ (s : State) (i : Instr), Memory.wf s.cfg s.mem = true → i.wf = true →
    (s.withFetchWord 16 (encodeWord i).toNat).mode = .running ∧
      (s.withFetchWord 16 (encodeWord i).toNat).nextInstr = some i

/-- R62, R72 (the set of unknown words is the spec's decision D17, the counting its decision D20): an unknown opcode changes
no state except pc, and the debug counter if it is enabled. -/
def Obligations.UnknownOpcodeIsNoOp : Prop :=
  ∀ (s : State) (w : Word), s.mode = .running → s.pc.toNat + 1 < 4096 →
    decode [s.byteAt s.pc.toNat, s.byteAt (s.pc.toNat + 1)] = .error (.unknownOpcode w) →
    ∃ t, step s = .next t ∧ PcAdvances 2 s t ∧
      UnchangedExcept (fun c => c = .pc ∨ (c = .debugCount ∧ s.debugEnabled = true)) s t ∧
      (s.debugEnabled = true → t.debugCount = s.debugCount + 1)

/-- R69, R73 (the spec's decisions D3, D5): a fetch beyond memory takes FetchOutOfBounds and changes nothing else, and the
host is told. -/
def Obligations.FetchOutOfBoundsFaults : Prop :=
  ∀ s : State, s.mode = .running → 4096 ≤ s.pc.toNat + 1 →
    step s = .next { s with mode := .faulted .fetchOutOfBounds } ∧
      ∀ r, s.randIn = none →
        hostOp (.step r) s = .next (.fault .fetchOutOfBounds, { s with mode := .faulted .fetchOutOfBounds })

/-- R74 (the spec's decision D3): in mode Faulted a step changes no state and returns the cause again. -/
def Obligations.FaultedCoreRepeatsCause : Prop :=
  ∀ (s : State) (c : Fault), s.mode = .faulted c →
    step s = .fault c ∧ ∀ r, hostOp (.step r) s = .next (.fault c, s)

/-- R73 (the spec's decision D3): faults are precise. A step that leaves the core Faulted changed the mode and nothing
else. -/
def Obligations.FaultsArePrecise : Prop :=
  ∀ (s t : State) (c : Fault), step s = .next t → t.mode = .faulted c → t = { s with mode := .faulted c }

/-- R118, R122 (the spec's decisions D3, D7 among the causes): from Running, a step ends Faulted with a cause exactly if that
cause is justified. The premise on the depth is Inv.depth. -/
def Obligations.FaultTakenExactlyWhenJustified : Prop :=
  ∀ s : State, s.mode = .running → s.stack.length ≤ 16 →
    ∃ t, step s = .next t ∧ ∀ c, t.mode = .faulted c ↔ FaultJustified s c

/-- Every instruction answers a next state in every state, and every step of a core that is not Faulted does; nothing is ever
refused. That CALL, RET, Fx33, Fx55, Fx65 and Dxyn answer a next state, in mode Faulted, also where they fault is the model's
own choice (log 1, DEDUCED), over the Faulted mode of the spec's decision D3; for an unknown word it is its decision D17. -/
def Obligations.EveryInstructionAnswersNextState : Prop :=
  (∀ (i : Instr) (s : State), ∃ t, exec i s = .next t) ∧
    (∀ s : State, (∀ c, s.mode ≠ .faulted c) → ∃ t, step s = .next t)

/-- R75 (the spec's decision D11): without a key-down transition the wait goes on and remembers the snapshot; with one, the
least new key is stored, pc leaves the Fx0A, and the core runs again. -/
def Obligations.KeyWaitEndsWithLeastNewKey : Prop :=
  ∀ (s : State) (x : Reg) (base : Word), s.mode = .awaitingKey x base →
    ((∀ k : Fin 16, s.KEY.getLsbD k = true → base.getLsbD k = true) →
      step s = .next { s with mode := .awaitingKey x s.KEY }) ∧
    (∀ k : Fin 16, s.KEY.getLsbD k = true → base.getLsbD k = false →
      (∀ j : Fin 16, j < k → s.KEY.getLsbD j = true → base.getLsbD j = true) →
      ∃ t, step s = .next t ∧ t.mode = .running ∧ (t.getV x).toNat = k.val ∧ PcAdvances 2 s t ∧
        UnchangedExcept (fun c => c = .pc ∨ c = .mode ∨ c = .reg x) s t)

/-- R119: a fatal error is told by the return value of step(r) and stays visible as the mode that read_registers shows;
an unknown opcode is absorbed. -/
def Obligations.FaultReportedByReplyAndMode : Prop :=
  ∀ (r : Byte) (s t : State) (rep : Reply), hostOp (.step r) s = .next (rep, t) →
    (∀ c, rep = .fault c ↔ t.mode = .faulted c) ∧
      (∃ v, hostOp .readRegisters t = .next (.registers v, t) ∧ v.mode = t.mode) ∧
      (∀ w, s.mode = .running → s.fetch = some w → decodeWord w = .error (.unknownOpcode w) →
        rep = .ok ∧ t.mode = .running)

/-- R77: the random byte reaches the result of a step only through the random-byte instruction. -/
def Obligations.RandomByteReachesOnlyRnd : Prop :=
  ∀ (s : State) (r r' : Byte), (∀ x kk, s.mode = .running → s.nextInstr ≠ some (.rnd x kk)) →
    hostOp (.step r) s = hostOp (.step r') s

/-- R35, R78 (the spec's decision D20): the debug fields affect no other state. -/
def Obligations.DebugFieldsAffectNothing : Prop :=
  ∀ (s : State) (b : Bool) (n : Nat),
    (∀ t, step s = .next t →
      ∃ n', step { s with debugEnabled := b, debugCount := n } = .next { t with debugEnabled := b, debugCount := n' }) ∧
    (∀ c, step s = .fault c → step { s with debugEnabled := b, debugCount := n } = .fault c)

/-! ## Invariants and whole-machine rules -/

/-- Every step keeps the invariant: canonical memory, at most 16 return addresses, bounded pc, a key wait at its own Fx0A,
and a Faulted core that still shows its cause. -/
def Obligations.StepKeepsInvariant : Prop :=
  ∀ s t : State, Inv s → step s = .next t → Inv t

/-- The reset state has the invariant, for every configuration. -/
def Obligations.ResetMeetsInvariant : Prop :=
  Inv State.reset ∧ ∀ c : Config, Inv (State.resetWith c)

/-- Every host operation keeps the invariant. -/
def Obligations.HostOperationsKeepInvariant : Prop :=
  ∀ (op : HostOp) (s t : State) (rep : Reply), Inv s → hostOp op s = .next (rep, t) → Inv t

/-- R27: a step changes the stack only by running CALL, which pushes one entry, or RET, which pops the top one. -/
def Obligations.StackChangesOnlyByCallAndRet : Prop :=
  ∀ s t : State, step s = .next t → t.stack ≠ s.stack →
    ((∃ nnn, s.nextInstr = some (.call nnn)) ∧ t.stack = (s.pc + 2) :: s.stack) ∨
      (s.nextInstr = some .ret ∧ ∃ v, s.stack = v :: t.stack)

/-- From R29, in part: a step changes DT only by Fx15 and ST only by Fx18, to the register's value, and so never counts them down; no
instruction reads ST; advance_timers decrements each timer that is not 0 by one, and no operation but it, a step and
initialize changes a timer. That advance_timers acts in every mode is the spec's decision D21; that the three instructions
do read and write the timers is TimerTransfers. -/
def Obligations.TimersChangeOnlyByLoadAndTick : Prop :=
  (∀ s t : State, step s = .next t →
    (t.DT = s.DT ∨ ∃ x, s.nextInstr = some (.ldDTV x) ∧ t.DT = s.getV x) ∧
      (t.ST = s.ST ∨ ∃ x, s.nextInstr = some (.ldSTV x) ∧ t.ST = s.getV x)) ∧
    (∀ (i : Instr) (s t : State) (v : Byte), exec i s = .next t → ∃ w, exec i { s with ST := v } = .next { t with ST := w }) ∧
    (∀ s : State, ∃ t, hostOp .advanceTimers s = .next (.nothing, t) ∧ t.DT.toNat = s.DT.toNat - 1 ∧
      t.ST.toNat = s.ST.toNat - 1) ∧
    (∀ (op : HostOp) (s t : State) (rep : Reply), (∀ r, op ≠ .step r) → (∀ rom, op ≠ .init rom) → op ≠ .advanceTimers →
      hostOp op s = .next (rep, t) → t.DT = s.DT ∧ t.ST = s.ST)

/-- R30, R31, R32: a step changes the framebuffer or the dirty flag only by 00E0 and Dxyn, never clears the flag, and never
writes the keyboard snapshot or the configuration. -/
def Obligations.FramebufferWrittenOnlyByDisplay : Prop :=
  ∀ s t : State, step s = .next t →
    (((∃ x y, t.pixel x y ≠ s.pixel x y) ∨ t.dirty ≠ s.dirty) →
      s.nextInstr = some .cls ∨ ∃ x y n, s.nextInstr = some (.drw x y n)) ∧
    (s.dirty = true → t.dirty = true) ∧ t.KEY = s.KEY ∧ t.cfg = s.cfg

/-- R54, R42: a step changes a byte of memory only by Fx33, among the three bytes at I, or by Fx55, among the x + 1 bytes at
I. -/
def Obligations.MemoryWrittenOnlyByStores : Prop :=
  ∀ (s t : State) (a : Nat), step s = .next t → t.byteAt a ≠ s.byteAt a →
    (∃ x, s.nextInstr = some (.ldBV x) ∧ s.I.toNat ≤ a ∧ a < s.I.toNat + 3) ∨
      (∃ x : Reg, s.nextInstr = some (.ldMV x) ∧ s.I.toNat ≤ a ∧ a ≤ s.I.toNat + x.val)

/-- R21 (the spec's decision D9 excludes all others): an instruction changes VF only as the flag of 8xy4 to 8xyE and Dxyn, or
as the destination that it names. -/
def Obligations.VfWrittenOnlyAsFlagOrDestination : Prop :=
  ∀ (i : Instr) (s t : State), exec i s = .next t → t.getV 15 ≠ s.getV 15 →
    (∃ x y, i = .addVV x y ∨ i = .subVV x y ∨ i = .subn x y ∨ i = .shr x y ∨ i = .shl x y) ∨
      (∃ x y n, i = .drw x y n) ∨
      (∃ kk, i = .ldVB 15 kk ∨ i = .addVB 15 kk ∨ i = .rnd 15 kk) ∨
      (∃ y, i = .ldVV 15 y ∨ i = .orVV 15 y ∨ i = .andVV 15 y ∨ i = .xorVV 15 y) ∨ i = .ldVDT 15 ∨ i = .ldVM 15

/-! ## Control flow -/

/-- R79: SYS only moves pc on. -/
def Obligations.SysIsNoOp : Prop :=
  ∀ (nnn : Addr) (s : State), ∃ t, exec (.sys nnn) s = .next t ∧ PcAdvances 2 s t ∧ UnchangedExcept (fun c => c = .pc) s t

/-- R81: 1nnn is JP, which takes its target as given and changes only pc; a target of 0xFFF makes the next fetch fault. -/
def Obligations.JumpGoesToAddress : Prop :=
  (∀ (nnn : Addr) (w : Word), w.toNat = 0x1000 + nnn.toNat → decodeWord w = .ok (.jp nnn)) ∧
  ∀ (nnn : Addr) (s : State), ∃ t, exec (.jp nnn) s = .next t ∧ t.pc.toNat = nnn.toNat ∧
    UnchangedExcept (fun c => c = .pc) s t ∧
    (nnn = 0xFFF → t.mode = .running → ∃ u, step t = .next u ∧ u.mode = .faulted .fetchOutOfBounds)

/-- R87 (the spec's decision D6 on the width): the register added is V0, and the sum is kept in full. -/
def Obligations.JumpAddsV0 : Prop :=
  ∀ (nnn : Addr) (s : State), ∃ t, exec (.jpV0 nnn) s = .next t ∧ t.pc.toNat = nnn.toNat + (s.getV 0).toNat ∧
    UnchangedExcept (fun c => c = .pc) s t

/-- From R28, R80 and R82: 2nnn is CALL, which pushes the post-fetch pc, or takes StackOverflow; RET pops the top value into
pc, or takes StackUnderflow. That a fault restores everything else and leaves mode Faulted is the spec's decision D3; that
it is a next state is the model's own choice (log 1, DEDUCED). -/
def Obligations.CallPushesAndRetPops : Prop :=
  (∀ (nnn : Addr) (w : Word), w.toNat = 0x2000 + nnn.toNat → decodeWord w = .ok (.call nnn)) ∧
  (∀ (nnn : Addr) (s : State), s.stack.length < 16 →
    ∃ t v, exec (.call nnn) s = .next t ∧ t.stack = v :: s.stack ∧ v.toNat = (s.pc.toNat + 2) % 65536 ∧
      t.pc.toNat = nnn.toNat ∧ UnchangedExcept (fun c => c = .pc ∨ c = .stack) s t) ∧
    (∀ (nnn : Addr) (s : State), 16 ≤ s.stack.length →
      exec (.call nnn) s = .next { s with mode := .faulted .stackOverflow }) ∧
    (∀ (s : State) (v : Word) (st : List Word), s.stack = v :: st →
      ∃ t, exec .ret s = .next t ∧ t.stack = st ∧ t.pc = v ∧ UnchangedExcept (fun c => c = .pc ∨ c = .stack) s t) ∧
    (∀ s : State, s.stack = [] → exec .ret s = .next { s with mode := .faulted .stackUnderflow })

/-- The example of the source's §8 (E7), from any state that can call: CALL and then RET leave pc after the CALL and everything
else as it was. -/
def Obligations.CallThenRetReturns : Prop :=
  ∀ (nnn : Addr) (s : State), s.stack.length < 16 →
    ∃ t u, exec (.call nnn) s = .next t ∧ exec .ret t = .next u ∧ PcAdvances 2 s u ∧
      UnchangedExcept (fun c => c = .pc) s u

/-- R83 to R86, R115, R116 (the conditions are general knowledge G3 to G7, the low nibble that names the key is the spec's
decision D10): the six skips move pc by 4 if their condition holds and by 2 if not, and mutate nothing. -/
def Obligations.SkipsTestAndMoveOnlyPc : Prop :=
  ∀ (x y : Reg) (kk : Byte) (s : State),
    (∃ t, exec (.seVB x kk) s = .next t ∧ PcAdvances (if s.getV x = kk then 4 else 2) s t ∧
      UnchangedExcept (fun c => c = .pc) s t) ∧
    (∃ t, exec (.sneVB x kk) s = .next t ∧ PcAdvances (if s.getV x = kk then 2 else 4) s t ∧
      UnchangedExcept (fun c => c = .pc) s t) ∧
    (∃ t, exec (.seVV x y) s = .next t ∧ PcAdvances (if s.getV x = s.getV y then 4 else 2) s t ∧
      UnchangedExcept (fun c => c = .pc) s t) ∧
    (∃ t, exec (.sneVV x y) s = .next t ∧ PcAdvances (if s.getV x = s.getV y then 2 else 4) s t ∧
      UnchangedExcept (fun c => c = .pc) s t) ∧
    (∃ t, exec (.skp x) s = .next t ∧
      PcAdvances (if s.KEY.getLsbD ((s.getV x).toNat % 16) = true then 4 else 2) s t ∧
      UnchangedExcept (fun c => c = .pc) s t) ∧
    (∃ t, exec (.sknp x) s = .next t ∧
      PcAdvances (if s.KEY.getLsbD ((s.getV x).toNat % 16) = true then 2 else 4) s t ∧
      UnchangedExcept (fun c => c = .pc) s t)

/-! ## Arithmetic, logic and register loads -/

/-- R90, R91 (general knowledge G1, G2), R93 to R95 (VF untouched is the spec's decision D9): the result goes to V[x] and
nothing but V[x] and pc changes. -/
def Obligations.ImmediatesAndLogicWriteVx : Prop :=
  ∀ (x y : Reg) (kk : Byte) (s : State),
    (∃ t, exec (.ldVB x kk) s = .next t ∧ t.getV x = kk ∧ PcAdvances 2 s t ∧
      UnchangedExcept (fun c => c = .pc ∨ c = .reg x) s t) ∧
    (∃ t, exec (.addVB x kk) s = .next t ∧ (t.getV x).toNat = ((s.getV x).toNat + kk.toNat) % 256 ∧ PcAdvances 2 s t ∧
      UnchangedExcept (fun c => c = .pc ∨ c = .reg x) s t) ∧
    (∃ t, exec (.orVV x y) s = .next t ∧
      (∀ k, (t.getV x).getLsbD k = ((s.getV x).getLsbD k || (s.getV y).getLsbD k)) ∧ PcAdvances 2 s t ∧
      UnchangedExcept (fun c => c = .pc ∨ c = .reg x) s t) ∧
    (∃ t, exec (.andVV x y) s = .next t ∧
      (∀ k, (t.getV x).getLsbD k = ((s.getV x).getLsbD k && (s.getV y).getLsbD k)) ∧ PcAdvances 2 s t ∧
      UnchangedExcept (fun c => c = .pc ∨ c = .reg x) s t) ∧
    (∃ t, exec (.xorVV x y) s = .next t ∧
      (∀ k, (t.getV x).getLsbD k = ((s.getV x).getLsbD k ^^ (s.getV y).getLsbD k)) ∧ PcAdvances 2 s t ∧
      UnchangedExcept (fun c => c = .pc ∨ c = .reg x) s t)

/-- R92: 8xy0 is LD Vx, Vy, which copies the register and changes nothing but it and pc. -/
def Obligations.RegisterCopy : Prop :=
  (∀ (x y : Reg) (w : Word), w.toNat = 0x8000 + 0x100 * x.val + 0x10 * y.val → decodeWord w = .ok (.ldVV x y)) ∧
  ∀ (x y : Reg) (s : State), ∃ t, exec (.ldVV x y) s = .next t ∧ t.getV x = s.getV y ∧ PcAdvances 2 s t ∧
    UnchangedExcept (fun c => c = .pc ∨ c = .reg x) s t

/-- R96, R89 (when x = F the carry stays: the spec's decision D8): the sum modulo 256 and the carry. -/
def Obligations.AddSetsCarry : Prop :=
  ∀ (x y : Reg) (s : State), ∃ t, exec (.addVV x y) s = .next t ∧
    (t.getV 15).toNat = (if (s.getV x).toNat + (s.getV y).toNat > 255 then 1 else 0) ∧
    (x ≠ 15 → (t.getV x).toNat = ((s.getV x).toNat + (s.getV y).toNat) % 256) ∧ PcAdvances 2 s t ∧
    UnchangedExcept (fun c => c = .pc ∨ c = .reg x ∨ c = .reg 15) s t

/-- R97, R99, R89 (when x = F the difference stays: the spec's decision D8): the difference modulo 256, and VF = 1 exactly on
a strictly greater minuend. -/
def Obligations.SubtractionsSetStrictGreater : Prop :=
  ∀ (x y : Reg) (s : State),
    (∃ t, exec (.subVV x y) s = .next t ∧
      (t.getV x).toNat = ((s.getV x).toNat + 256 - (s.getV y).toNat) % 256 ∧
      (x ≠ 15 → (t.getV 15).toNat = if (s.getV x).toNat > (s.getV y).toNat then 1 else 0) ∧ PcAdvances 2 s t ∧
      UnchangedExcept (fun c => c = .pc ∨ c = .reg x ∨ c = .reg 15) s t) ∧
    (∃ t, exec (.subn x y) s = .next t ∧
      (t.getV x).toNat = ((s.getV y).toNat + 256 - (s.getV x).toNat) % 256 ∧
      (x ≠ 15 → (t.getV 15).toNat = if (s.getV y).toNat > (s.getV x).toNat then 1 else 0) ∧ PcAdvances 2 s t ∧
      UnchangedExcept (fun c => c = .pc ∨ c = .reg x ∨ c = .reg 15) s t)

/-- R98, R100, R4, R89 (when x = F the shifted value stays: the spec's decision D8): the shifts of Vx alone, whatever y
names. -/
def Obligations.ShiftsUseVxAlone : Prop :=
  ∀ (x y : Reg) (s : State),
    (∃ t, exec (.shr x y) s = .next t ∧ (t.getV x).toNat = (s.getV x).toNat / 2 ∧
      (x ≠ 15 → (t.getV 15).toNat = (s.getV x).toNat % 2) ∧ PcAdvances 2 s t ∧
      UnchangedExcept (fun c => c = .pc ∨ c = .reg x ∨ c = .reg 15) s t) ∧
    (∃ t, exec (.shl x y) s = .next t ∧ (t.getV x).toNat = 2 * (s.getV x).toNat % 256 ∧
      (x ≠ 15 → (t.getV 15).toNat = (s.getV x).toNat / 128) ∧ PcAdvances 2 s t ∧
      UnchangedExcept (fun c => c = .pc ∨ c = .reg x ∨ c = .reg 15) s t)

/-- R101 (the free draw is the spec's decision D19, log 2): the result is masked by kk whatever the byte is, and is r & kk when
the host passes r. -/
def Obligations.RandomByteIsMasked : Prop :=
  (∀ (x : Reg) (kk : Byte) (s : State), ∃ t, exec (.rnd x kk) s = .next t ∧ t.getV x &&& ~~~kk = 0 ∧
    PcAdvances 2 s t ∧ UnchangedExcept (fun c => c = .pc ∨ c = .reg x ∨ c = .randIn ∨ c = .draws) s t) ∧
    (∀ (x : Reg) (kk r : Byte) (s : State), s.mode = .running → s.nextInstr = some (.rnd x kk) →
      ∃ t, hostOp (.step r) s = .next (.ok, t) ∧ t.getV x = r &&& kk)

/-! ## Index register and memory -/

/-- R102: Annn is LD I, nnn. -/
def Obligations.IndexLoad : Prop :=
  (∀ (nnn : Addr) (w : Word), w.toNat = 0xA000 + nnn.toNat → decodeWord w = .ok (.ldIA nnn)) ∧
  ∀ (nnn : Addr) (s : State), ∃ t, exec (.ldIA nnn) s = .next t ∧ t.I.toNat = nnn.toNat ∧ PcAdvances 2 s t ∧
    UnchangedExcept (fun c => c = .pc ∨ c = .index) s t

/-- R103 (VF untouched is the spec's decision D9): I wraps at 16 bits, not at 12. -/
def Obligations.IndexAddWrapsAtSixteenBits : Prop :=
  ∀ (x : Reg) (s : State), ∃ t, exec (.addIV x) s = .next t ∧ t.I.toNat = (s.I.toNat + (s.getV x).toNat) % 65536 ∧
    PcAdvances 2 s t ∧ UnchangedExcept (fun c => c = .pc ∨ c = .index) s t

/-- R104, R12 (the spec's decision D12): the glyph of the low nibble, for every placement of the font; all five of its bytes
lie below 0x200. -/
def Obligations.GlyphAddressForEveryFontBase : Prop :=
  ∀ (x : Reg) (s : State), ∃ t, exec (.ldFV x) s = .next t ∧
    t.I.toNat = s.cfg.fontBase.val + 5 * ((s.getV x).toNat % 16) ∧ t.I.toNat + 5 ≤ 0x200 ∧ PcAdvances 2 s t ∧
    UnchangedExcept (fun c => c = .pc ∨ c = .index) s t

/-- R106 (the range check is the spec's decision D7): Fx33 stores three decimal digits whose value is Vx, at I, I + 1 and
I + 2, and nothing else. The premise on memory is Inv.memory. -/
def Obligations.BcdStoresThreeDigits : Prop :=
  ∀ (x : Reg) (s : State), Memory.wf s.cfg s.mem = true → s.I.toNat + 2 < 4096 →
    ∃ t, exec (.ldBV x) s = .next t ∧
      (t.byteAt s.I.toNat).toNat ≤ 9 ∧ (t.byteAt (s.I.toNat + 1)).toNat ≤ 9 ∧ (t.byteAt (s.I.toNat + 2)).toNat ≤ 9 ∧
      100 * (t.byteAt s.I.toNat).toNat + 10 * (t.byteAt (s.I.toNat + 1)).toNat + (t.byteAt (s.I.toNat + 2)).toNat =
        (s.getV x).toNat ∧
      PcAdvances 2 s t ∧
      UnchangedExcept (fun c => c = .pc ∨ ∃ a, c = .mem a ∧ indexAddr s ≤ a ∧ a < indexAddr s + 3) s t

/-- R107 (the range check is the spec's decision D7): Fx55 stores V0 … Vx and moves I past them. The premise on memory is
Inv.memory. -/
def Obligations.BlockStoreWritesRegisters : Prop :=
  ∀ (x : Reg) (s : State), Memory.wf s.cfg s.mem = true → s.I.toNat + x.val < 4096 →
    ∃ t, exec (.ldMV x) s = .next t ∧ (∀ r : Reg, r ≤ x → t.byteAt (s.I.toNat + r.val) = s.getV r) ∧
      t.I.toNat = s.I.toNat + x.val + 1 ∧ PcAdvances 2 s t ∧
      UnchangedExcept
        (fun c => c = .pc ∨ c = .index ∨ ∃ a, c = .mem a ∧ indexAddr s ≤ a ∧ a < indexAddr s + (x.val + 1)) s t

/-- R108 (the range check is the spec's decision D7): Fx65 loads V0 … Vx and moves I past the bytes read; memory is
unchanged. -/
def Obligations.BlockLoadReadsMemory : Prop :=
  ∀ (x : Reg) (s : State), s.I.toNat + x.val < 4096 →
    ∃ t, exec (.ldVM x) s = .next t ∧ (∀ r : Reg, r ≤ x → t.getV r = s.byteAt (s.I.toNat + r.val)) ∧
      t.I.toNat = s.I.toNat + x.val + 1 ∧ PcAdvances 2 s t ∧
      UnchangedExcept (fun c => c = .pc ∨ c = .index ∨ ∃ r, c = .reg r ∧ r ≤ x) s t

/-- R108, "inverse of Fx55": after a store, loading from the same address gives back V0 … Vx, whatever the registers and the
rest of the state have become meanwhile, as long as memory is the same. -/
def Obligations.BlockLoadInvertsBlockStore : Prop :=
  ∀ (x : Reg) (s t u : State), Memory.wf s.cfg s.mem = true → s.I.toNat + x.val < 4096 →
    exec (.ldMV x) s = .next t → u.cfg = t.cfg → u.mem = t.mem → u.I = s.I →
    ∃ v, exec (.ldVM x) u = .next v ∧ ∀ r : Reg, r ≤ x → v.getV r = s.getV r

/-- R46, R106, R107, R108, R110 (the spec's decisions D3, D7): an access whose range leaves memory takes MemoryOutOfBounds and
changes nothing but the mode. -/
def Obligations.OutOfRangeAccessFaults : Prop :=
  ∀ (x y : Reg) (n : Fin 16) (s : State),
    (4096 ≤ s.I.toNat + 2 → exec (.ldBV x) s = .next { s with mode := .faulted .memoryOutOfBounds }) ∧
    (4096 ≤ s.I.toNat + x.val → exec (.ldMV x) s = .next { s with mode := .faulted .memoryOutOfBounds }) ∧
    (4096 ≤ s.I.toNat + x.val → exec (.ldVM x) s = .next { s with mode := .faulted .memoryOutOfBounds }) ∧
    (0 < n.val → 4096 ≤ s.I.toNat + n.val - 1 →
      exec (.drw x y n) s = .next { s with mode := .faulted .memoryOutOfBounds })

/-- R52, R148 (the spec's decision D22): a store over the two bytes at pc_next is what the next fetch reads. The premise on
memory is Inv.memory. -/
def Obligations.StoreOverNextInstructionIsFetched : Prop :=
  ∀ (s t : State), Memory.wf s.cfg s.mem = true → s.pc.toNat < 0xFFD → s.I.toNat = s.pc.toNat + 2 →
    exec (.ldMV 1) s = .next t →
    ∃ w, t.fetch = some w ∧ w.toNat = 256 * (s.getV 0).toNat + (s.getV 1).toNat

/-- The canonical form of memory (log 4): two canonical memories of one configuration in which every address of R39 reads
alike are the same data. -/
def Obligations.CanonicalMemoryIsUnique : Prop :=
  ∀ (c : Config) (m m' : Memory), Memory.wf c m = true → Memory.wf c m' = true →
    (∀ a, a < 4096 → Memory.read c m a = Memory.read c m' a) → m = m'

/-! ## Display -/

/-- R109 (VF untouched is the spec's decision D9): CLS clears every pixel and sets dirty. -/
def Obligations.ClearScreen : Prop :=
  ∀ s : State, ∃ t, exec .cls s = .next t ∧ (∀ x y, t.pixel x y = false) ∧ t.dirty = true ∧ PcAdvances 2 s t ∧
    UnchangedExcept (fun c => c = .pc ∨ c = .dirty ∨ ∃ x y, c = .pixel x y) s t

/-- R110 (the range check is the spec's decision D7, the old VF as a coordinate its decision D8): every pixel of the screen is
inverted exactly if a 1 bit of the sprite lands on it, wrapping on both axes; VF is 1 exactly if some pixel went from set to
unset; dirty is set; I and memory are unchanged. -/
def Obligations.DrawInvertsSpritePixels : Prop :=
  ∀ (x y : Reg) (n : Fin 16) (s : State), (n.val = 0 ∨ s.I.toNat + n.val - 1 < 4096) →
    ∃ t, exec (.drw x y n) s = .next t ∧
      (∀ px py, SpriteSets s (s.getV x) (s.getV y) n px py → t.pixel px py = !s.pixel px py) ∧
      (∀ px py, ¬ SpriteSets s (s.getV x) (s.getV y) n px py → t.pixel px py = s.pixel px py) ∧
      ((∃ px py, s.pixel px py = true ∧ t.pixel px py = false) → t.getV 15 = 1) ∧
      ((∀ px py, s.pixel px py = true → t.pixel px py = true) → t.getV 15 = 0) ∧
      t.dirty = true ∧ PcAdvances 2 s t ∧
      UnchangedExcept (fun c => c = .pc ∨ c = .dirty ∨ c = .reg 15 ∨ ∃ px py, c = .pixel px py) s t

/-- R111: bit 7 of the byte at I + row is the leftmost pixel of that row, bit 0 the rightmost, and rows go down the screen as
the address rises. -/
def Obligations.SpriteRowBitOrder : Prop :=
  ∀ (x y : Reg) (n : Fin 16) (s t : State), s.I.toNat + n.val ≤ 4096 → exec (.drw x y n) s = .next t →
    ∀ (row col : Nat) (px : Fin 64) (py : Fin 32), row < n.val → col < 8 →
      px.val = ((s.getV x).toNat + col) % 64 → py.val = ((s.getV y).toNat + row) % 32 →
      t.pixel px py = (s.pixel px py ^^ (s.byteAt (s.I.toNat + row)).getLsbD (7 - col))

/-- The example of the source's §8 (E5), for every sprite: drawing it twice at coordinates that VF does not hold restores the
frame, and the second draw reports a collision exactly if the sprite has a 1 bit over a pixel that was unset. -/
def Obligations.DrawTwiceRestoresFrame : Prop :=
  ∀ (x y : Reg) (n : Fin 16) (s : State), x ≠ 15 → y ≠ 15 → s.I.toNat + n.val ≤ 4096 →
    ∃ t u, exec (.drw x y n) s = .next t ∧ exec (.drw x y n) t = .next u ∧
      (∀ px py, u.pixel px py = s.pixel px py) ∧
      (u.getV 15 = 1 ↔ ∃ px py, SpriteSets s (s.getV x) (s.getV y) n px py ∧ s.pixel px py = false)

/-! ## Timers and key wait -/

/-- R112, R113, R114: the timer transfers, Fx07, Fx15 and Fx18. -/
def Obligations.TimerTransfers : Prop :=
  (∀ (x : Reg) (w : Word),
    (w.toNat = 0xF007 + 0x100 * x.val → decodeWord w = .ok (.ldVDT x)) ∧
    (w.toNat = 0xF015 + 0x100 * x.val → decodeWord w = .ok (.ldDTV x)) ∧
    (w.toNat = 0xF018 + 0x100 * x.val → decodeWord w = .ok (.ldSTV x))) ∧
  ∀ (x : Reg) (s : State),
    (∃ t, exec (.ldVDT x) s = .next t ∧ t.getV x = s.DT ∧ PcAdvances 2 s t ∧
      UnchangedExcept (fun c => c = .pc ∨ c = .reg x) s t) ∧
    (∃ t, exec (.ldDTV x) s = .next t ∧ t.DT = s.getV x ∧ PcAdvances 2 s t ∧
      UnchangedExcept (fun c => c = .pc ∨ c = .delayTimer) s t) ∧
    (∃ t, exec (.ldSTV x) s = .next t ∧ t.ST = s.getV x ∧ PcAdvances 2 s t ∧
      UnchangedExcept (fun c => c = .pc ∨ c = .soundTimer) s t)

/-- R117 (the base and the wait's end are the spec's decision D11): Fx0A enters the awaiting-key state with the snapshot of this
step, and changes nothing else; pc does not advance. -/
def Obligations.KeyWaitBegins : Prop :=
  ∀ (x : Reg) (s : State), ∃ t, exec (.ldVK x) s = .next t ∧ t.mode = .awaitingKey x s.KEY ∧ t.pc = s.pc ∧
    UnchangedExcept (fun c => c = .mode) s t

/-! ## The host's operations and reset -/

/-- R128 (every mode, and nothing else: the spec's decision D21): after k calls of advance_timers each timer has gone down by
k, but not below 0, and nothing else has changed. -/
def Obligations.TimersCountDownAndStopAtZero : Prop :=
  (∀ s : State, hostOp .advanceTimers s = .next (.nothing, s.advanceTimers)) ∧
    ∀ (k : Nat) (s : State),
      (State.advanceTimers^[k] s).DT.toNat = s.DT.toNat - k ∧ (State.advanceTimers^[k] s).ST.toNat = s.ST.toNat - k ∧
        UnchangedExcept (fun c => c = .delayTimer ∨ c = .soundTimer) s (State.advanceTimers^[k] s)

/-- R142, R143, R38 (the font is the spec's decision D12, the size check D13, dirty D14, the reset of everything D16):
initialize, in any mode, either refuses a ROM of more than 3584 bytes with the state unchanged, or gives every field its reset
value, the font, the ROM and zeros. -/
def Obligations.InitializeResetsAndLoads : Prop :=
  ∀ (rom : List Byte) (s : State),
    (3584 < rom.length → hostOp (.init rom) s = .next (.romTooLarge, s)) ∧
    (rom.length ≤ 3584 → ∃ t, hostOp (.init rom) s = .next (.ok, t) ∧
      (∀ a v, rom[a]? = some v → t.byteAt (0x200 + a) = v) ∧ (∀ a, 0x200 + rom.length ≤ a → t.byteAt a = 0) ∧
      (∀ a (h : a < 80), t.byteAt (s.cfg.fontBase.val + a) = s.cfg.font[a]) ∧
      (∀ a, a < 0x200 → (a < s.cfg.fontBase.val ∨ s.cfg.fontBase.val + 80 ≤ a) → t.byteAt a = 0) ∧
      t.pc = 0x200 ∧ t.I = 0 ∧ (∀ r, t.getV r = 0) ∧ t.stack = [] ∧ t.DT = 0 ∧ t.ST = 0 ∧
      (∀ x y, t.pixel x y = false) ∧ t.dirty = false ∧ t.KEY = 0 ∧ t.mode = .running ∧ t.debugEnabled = false ∧
      t.debugCount = 0 ∧ t.cfg = s.cfg)

/-- R144: the entry point is 0x200, and the initial mode is Running. -/
def Obligations.FirstFetchIsAtEntryPoint : Prop :=
  ∀ (rom : List Byte) (s t : State), hostOp (.init rom) s = .next (.ok, t) →
    t.mode = .running ∧ t.pc = 0x200 ∧ t.fetch = some (opcodeOf (t.byteAt 0x200) (t.byteAt 0x201))

/-- R134: read_registers returns the registers, the stack and its depth, the timers and the mode, and changes nothing. -/
def Obligations.ReadRegistersShowsState : Prop :=
  ∀ s : State, ∃ v, hostOp .readRegisters s = .next (.registers v, s) ∧
    (∀ r : Reg, v.V[r.val] = s.getV r) ∧ v.I = s.I ∧ v.pc = s.pc ∧ v.stack = s.stack ∧ v.depth = s.stack.length ∧
    v.DT = s.DT ∧ v.ST = s.ST ∧ v.mode = s.mode

/-- R131, R132, R133, R135, R30 (the spec's decisions D14, D15, D20, D22): the other operations of the host. -/
def Obligations.HostReadsAndWrites : Prop :=
  ∀ (s : State) (keys : Word) (c a : Nat),
    (∃ t, hostOp (.setKeyState keys) s = .next (.nothing, t) ∧ t.KEY = keys ∧
      UnchangedExcept (fun k => k = .keys) s t) ∧
    (∃ t, hostOp .readFramebuffer s = .next (.framebuffer s.FB s.dirty, t) ∧ t.dirty = false ∧
      UnchangedExcept (fun k => k = .dirty) s t) ∧
    (∃ t, hostOp (.enableDebug c) s = .next (.nothing, t) ∧ t.debugEnabled = true ∧ t.debugCount = c ∧
      UnchangedExcept (fun k => k = .debugEnabled ∨ k = .debugCount) s t) ∧
    (a < 4096 → hostOp (.readMemory a) s = .next (.byte (s.byteAt a), s)) ∧
    (4096 ≤ a → hostOp (.readMemory a) s = .next (.addressError, s)) ∧
    (∀ (x : Fin 64) (y : Fin 32) (idx : Fin 2048), idx.val = y.val * 64 + x.val → s.fbIndex idx = s.pixel x y)

/-- Before initialize every operation but it is refused (the spec's decision D26). A first initialize follows R142: with a
ROM of at most 3584 bytes it makes the core live, and with a longer one it answers RomTooLarge and leaves no state (the
spec's decision D13, log 22). That the configuration stays is the model's own choice (log 24, DEDUCED). -/
def Obligations.NothingRunsBeforeInitialize : Prop :=
  ∀ (c : Config) (op : HostOp) (rom : List Byte),
    ((∀ rom, op ≠ .init rom) → sessionOp op (.cold c) = .refused .beforeInitialize) ∧
    (rom.length ≤ 3584 → ∃ s, sessionOp (.init rom) (.cold c) = .next (.ok, .live s) ∧ s.cfg = c) ∧
    (3584 < rom.length → sessionOp (.init rom) (.cold c) = .next (.romTooLarge, .cold c))
end

