-- ==== Sys2Proof/Laws/Decode.lean ====
section
/-! SUPPORT. The fields of an opcode and the words of the encoder, as numbers: what the other files prove about encodings they
prove from these. -/

namespace Sys2Proof

theorem append_toNat {m n : Nat} (a : BitVec m) (b : BitVec n) : (a ++ b).toNat = a.toNat * 2 ^ n + b.toNat := by
  rw [BitVec.toNat_append, ← Nat.shiftLeft_add_eq_or_of_lt b.isLt, Nat.shiftLeft_eq]

theorem fieldD1_toNat (w : Word) : (fieldD1 w).toNat = w.toNat / 4096 % 16 := by
  simp [fieldD1, Nat.shiftRight_eq_div_pow]

theorem fieldX_val (w : Word) : (fieldX w).val = w.toNat / 256 % 16 := by
  simp [fieldX, Nat.shiftRight_eq_div_pow]

theorem fieldY_val (w : Word) : (fieldY w).val = w.toNat / 16 % 16 := by
  simp [fieldY, Nat.shiftRight_eq_div_pow]

theorem fieldN_val (w : Word) : (fieldN w).val = w.toNat % 16 := by
  simp [fieldN]

theorem fieldKK_toNat (w : Word) : (fieldKK w).toNat = w.toNat % 256 := by
  simp [fieldKK]

theorem fieldNNN_toNat (w : Word) : (fieldNNN w).toNat = w.toNat % 4096 := by
  simp [fieldNNN]

theorem wordOfNNN_toNat (d : BitVec 4) (nnn : Addr) : (wordOfNNN d nnn).toNat = d.toNat * 4096 + nnn.toNat :=
  append_toNat d nnn

theorem wordOfXKK_toNat (d : BitVec 4) (x : Reg) (kk : Byte) :
    (wordOfXKK d x kk).toNat = d.toNat * 4096 + x.val * 256 + kk.toNat := by
  refine (append_toNat (d ++ (BitVec.ofFin x : BitVec 4)) kk).trans ?_
  rw [append_toNat]
  show (d.toNat * 2 ^ 4 + x.val) * 2 ^ 8 + kk.toNat = _
  omega

theorem wordOfNibbles_toNat (d : BitVec 4) (x y n : Fin 16) :
    (wordOfNibbles d x y n).toNat = d.toNat * 4096 + x.val * 256 + y.val * 16 + n.val := by
  refine (append_toNat (d ++ (BitVec.ofFin x : BitVec 4) ++ (BitVec.ofFin y : BitVec 4)) (BitVec.ofFin n : BitVec 4)).trans ?_
  rw [append_toNat, append_toNat]
  show ((d.toNat * 2 ^ 4 + x.val) * 2 ^ 4 + y.val) * 2 ^ 4 + n.val = _
  omega

theorem opcodeOf_toNat (hi lo : Byte) : (opcodeOf hi lo).toNat = hi.toNat * 256 + lo.toNat :=
  append_toNat hi lo

/-- The two bytes of a word, put together again, are the word. -/
@[simp] theorem opcodeOf_high_low (w : Word) : opcodeOf (highByte w) (lowByte w) = w := by
  apply BitVec.eq_of_toNat_eq
  rw [opcodeOf_toNat]
  have := w.isLt
  simp [highByte, lowByte, Nat.shiftRight_eq_div_pow]
  omega

end Sys2Proof
end

