-- ==== Sys2Proof/Laws/State.lean ====
section
/-! SUPPORT. The small lemmas of the state's updates: for every update one lemma per field, and one per reader that does not
see the updated field. True by rfl, tagged simp, so that no later proof unfolds a record update. -/

namespace Sys2Proof.Machine.State

variable (s : State)

/-! #### setV -/

@[simp] theorem setV_cfg (r : Reg) (v : Byte) : (s.setV r v).cfg = s.cfg := rfl
@[simp] theorem setV_mem (r : Reg) (v : Byte) : (s.setV r v).mem = s.mem := rfl
@[simp] theorem setV_pc (r : Reg) (v : Byte) : (s.setV r v).pc = s.pc := rfl
@[simp] theorem setV_I (r : Reg) (v : Byte) : (s.setV r v).I = s.I := rfl
@[simp] theorem setV_V (r : Reg) (v : Byte) : (s.setV r v).V = s.V.set r.val v r.isLt := rfl
@[simp] theorem setV_stack (r : Reg) (v : Byte) : (s.setV r v).stack = s.stack := rfl
@[simp] theorem setV_DT (r : Reg) (v : Byte) : (s.setV r v).DT = s.DT := rfl
@[simp] theorem setV_ST (r : Reg) (v : Byte) : (s.setV r v).ST = s.ST := rfl
@[simp] theorem setV_FB (r : Reg) (v : Byte) : (s.setV r v).FB = s.FB := rfl
@[simp] theorem setV_dirty (r : Reg) (v : Byte) : (s.setV r v).dirty = s.dirty := rfl
@[simp] theorem setV_KEY (r : Reg) (v : Byte) : (s.setV r v).KEY = s.KEY := rfl
@[simp] theorem setV_mode (r : Reg) (v : Byte) : (s.setV r v).mode = s.mode := rfl
@[simp] theorem setV_debugEnabled (r : Reg) (v : Byte) : (s.setV r v).debugEnabled = s.debugEnabled := rfl
@[simp] theorem setV_debugCount (r : Reg) (v : Byte) : (s.setV r v).debugCount = s.debugCount := rfl
@[simp] theorem setV_randIn (r : Reg) (v : Byte) : (s.setV r v).randIn = s.randIn := rfl
@[simp] theorem setV_draws (r : Reg) (v : Byte) : (s.setV r v).draws = s.draws := rfl
@[simp] theorem setV_byteAt (r : Reg) (v : Byte) (b : Nat) : (s.setV r v).byteAt b = s.byteAt b := rfl
@[simp] theorem setV_pixel (r : Reg) (v : Byte) (x : Fin 64) (y : Fin 32) : (s.setV r v).pixel x y = s.pixel x y := rfl
@[simp] theorem setV_fetch (r : Reg) (v : Byte) : (s.setV r v).fetch = s.fetch := rfl
@[simp] theorem setV_nextInstr (r : Reg) (v : Byte) : (s.setV r v).nextInstr = s.nextInstr := rfl

/-! #### setAllV -/

@[simp] theorem setAllV_cfg (vs : Vector Byte 16) : (s.setAllV vs).cfg = s.cfg := rfl
@[simp] theorem setAllV_mem (vs : Vector Byte 16) : (s.setAllV vs).mem = s.mem := rfl
@[simp] theorem setAllV_pc (vs : Vector Byte 16) : (s.setAllV vs).pc = s.pc := rfl
@[simp] theorem setAllV_I (vs : Vector Byte 16) : (s.setAllV vs).I = s.I := rfl
@[simp] theorem setAllV_V (vs : Vector Byte 16) : (s.setAllV vs).V = vs := rfl
@[simp] theorem setAllV_stack (vs : Vector Byte 16) : (s.setAllV vs).stack = s.stack := rfl
@[simp] theorem setAllV_DT (vs : Vector Byte 16) : (s.setAllV vs).DT = s.DT := rfl
@[simp] theorem setAllV_ST (vs : Vector Byte 16) : (s.setAllV vs).ST = s.ST := rfl
@[simp] theorem setAllV_FB (vs : Vector Byte 16) : (s.setAllV vs).FB = s.FB := rfl
@[simp] theorem setAllV_dirty (vs : Vector Byte 16) : (s.setAllV vs).dirty = s.dirty := rfl
@[simp] theorem setAllV_KEY (vs : Vector Byte 16) : (s.setAllV vs).KEY = s.KEY := rfl
@[simp] theorem setAllV_mode (vs : Vector Byte 16) : (s.setAllV vs).mode = s.mode := rfl
@[simp] theorem setAllV_debugEnabled (vs : Vector Byte 16) : (s.setAllV vs).debugEnabled = s.debugEnabled := rfl
@[simp] theorem setAllV_debugCount (vs : Vector Byte 16) : (s.setAllV vs).debugCount = s.debugCount := rfl
@[simp] theorem setAllV_randIn (vs : Vector Byte 16) : (s.setAllV vs).randIn = s.randIn := rfl
@[simp] theorem setAllV_draws (vs : Vector Byte 16) : (s.setAllV vs).draws = s.draws := rfl
@[simp] theorem setAllV_byteAt (vs : Vector Byte 16) (b : Nat) : (s.setAllV vs).byteAt b = s.byteAt b := rfl
@[simp] theorem setAllV_pixel (vs : Vector Byte 16) (x : Fin 64) (y : Fin 32) : (s.setAllV vs).pixel x y = s.pixel x y := rfl
@[simp] theorem setAllV_fetch (vs : Vector Byte 16) : (s.setAllV vs).fetch = s.fetch := rfl
@[simp] theorem setAllV_nextInstr (vs : Vector Byte 16) : (s.setAllV vs).nextInstr = s.nextInstr := rfl

/-! #### setPc -/

@[simp] theorem setPc_cfg (a : Word) : (s.setPc a).cfg = s.cfg := rfl
@[simp] theorem setPc_mem (a : Word) : (s.setPc a).mem = s.mem := rfl
@[simp] theorem setPc_pc (a : Word) : (s.setPc a).pc = a := rfl
@[simp] theorem setPc_I (a : Word) : (s.setPc a).I = s.I := rfl
@[simp] theorem setPc_V (a : Word) : (s.setPc a).V = s.V := rfl
@[simp] theorem setPc_stack (a : Word) : (s.setPc a).stack = s.stack := rfl
@[simp] theorem setPc_DT (a : Word) : (s.setPc a).DT = s.DT := rfl
@[simp] theorem setPc_ST (a : Word) : (s.setPc a).ST = s.ST := rfl
@[simp] theorem setPc_FB (a : Word) : (s.setPc a).FB = s.FB := rfl
@[simp] theorem setPc_dirty (a : Word) : (s.setPc a).dirty = s.dirty := rfl
@[simp] theorem setPc_KEY (a : Word) : (s.setPc a).KEY = s.KEY := rfl
@[simp] theorem setPc_mode (a : Word) : (s.setPc a).mode = s.mode := rfl
@[simp] theorem setPc_debugEnabled (a : Word) : (s.setPc a).debugEnabled = s.debugEnabled := rfl
@[simp] theorem setPc_debugCount (a : Word) : (s.setPc a).debugCount = s.debugCount := rfl
@[simp] theorem setPc_randIn (a : Word) : (s.setPc a).randIn = s.randIn := rfl
@[simp] theorem setPc_draws (a : Word) : (s.setPc a).draws = s.draws := rfl
@[simp] theorem setPc_getV (a : Word) (q : Reg) : (s.setPc a).getV q = s.getV q := rfl
@[simp] theorem setPc_byteAt (a : Word) (b : Nat) : (s.setPc a).byteAt b = s.byteAt b := rfl
@[simp] theorem setPc_pixel (a : Word) (x : Fin 64) (y : Fin 32) : (s.setPc a).pixel x y = s.pixel x y := rfl

/-! #### setI -/

@[simp] theorem setI_cfg (v : Word) : (s.setI v).cfg = s.cfg := rfl
@[simp] theorem setI_mem (v : Word) : (s.setI v).mem = s.mem := rfl
@[simp] theorem setI_pc (v : Word) : (s.setI v).pc = s.pc := rfl
@[simp] theorem setI_I (v : Word) : (s.setI v).I = v := rfl
@[simp] theorem setI_V (v : Word) : (s.setI v).V = s.V := rfl
@[simp] theorem setI_stack (v : Word) : (s.setI v).stack = s.stack := rfl
@[simp] theorem setI_DT (v : Word) : (s.setI v).DT = s.DT := rfl
@[simp] theorem setI_ST (v : Word) : (s.setI v).ST = s.ST := rfl
@[simp] theorem setI_FB (v : Word) : (s.setI v).FB = s.FB := rfl
@[simp] theorem setI_dirty (v : Word) : (s.setI v).dirty = s.dirty := rfl
@[simp] theorem setI_KEY (v : Word) : (s.setI v).KEY = s.KEY := rfl
@[simp] theorem setI_mode (v : Word) : (s.setI v).mode = s.mode := rfl
@[simp] theorem setI_debugEnabled (v : Word) : (s.setI v).debugEnabled = s.debugEnabled := rfl
@[simp] theorem setI_debugCount (v : Word) : (s.setI v).debugCount = s.debugCount := rfl
@[simp] theorem setI_randIn (v : Word) : (s.setI v).randIn = s.randIn := rfl
@[simp] theorem setI_draws (v : Word) : (s.setI v).draws = s.draws := rfl
@[simp] theorem setI_getV (v : Word) (q : Reg) : (s.setI v).getV q = s.getV q := rfl
@[simp] theorem setI_byteAt (v : Word) (b : Nat) : (s.setI v).byteAt b = s.byteAt b := rfl
@[simp] theorem setI_pixel (v : Word) (x : Fin 64) (y : Fin 32) : (s.setI v).pixel x y = s.pixel x y := rfl
@[simp] theorem setI_fetch (v : Word) : (s.setI v).fetch = s.fetch := rfl
@[simp] theorem setI_nextInstr (v : Word) : (s.setI v).nextInstr = s.nextInstr := rfl

/-! #### setDT -/

@[simp] theorem setDT_cfg (v : Byte) : (s.setDT v).cfg = s.cfg := rfl
@[simp] theorem setDT_mem (v : Byte) : (s.setDT v).mem = s.mem := rfl
@[simp] theorem setDT_pc (v : Byte) : (s.setDT v).pc = s.pc := rfl
@[simp] theorem setDT_I (v : Byte) : (s.setDT v).I = s.I := rfl
@[simp] theorem setDT_V (v : Byte) : (s.setDT v).V = s.V := rfl
@[simp] theorem setDT_stack (v : Byte) : (s.setDT v).stack = s.stack := rfl
@[simp] theorem setDT_DT (v : Byte) : (s.setDT v).DT = v := rfl
@[simp] theorem setDT_ST (v : Byte) : (s.setDT v).ST = s.ST := rfl
@[simp] theorem setDT_FB (v : Byte) : (s.setDT v).FB = s.FB := rfl
@[simp] theorem setDT_dirty (v : Byte) : (s.setDT v).dirty = s.dirty := rfl
@[simp] theorem setDT_KEY (v : Byte) : (s.setDT v).KEY = s.KEY := rfl
@[simp] theorem setDT_mode (v : Byte) : (s.setDT v).mode = s.mode := rfl
@[simp] theorem setDT_debugEnabled (v : Byte) : (s.setDT v).debugEnabled = s.debugEnabled := rfl
@[simp] theorem setDT_debugCount (v : Byte) : (s.setDT v).debugCount = s.debugCount := rfl
@[simp] theorem setDT_randIn (v : Byte) : (s.setDT v).randIn = s.randIn := rfl
@[simp] theorem setDT_draws (v : Byte) : (s.setDT v).draws = s.draws := rfl
@[simp] theorem setDT_getV (v : Byte) (q : Reg) : (s.setDT v).getV q = s.getV q := rfl
@[simp] theorem setDT_byteAt (v : Byte) (b : Nat) : (s.setDT v).byteAt b = s.byteAt b := rfl
@[simp] theorem setDT_pixel (v : Byte) (x : Fin 64) (y : Fin 32) : (s.setDT v).pixel x y = s.pixel x y := rfl
@[simp] theorem setDT_fetch (v : Byte) : (s.setDT v).fetch = s.fetch := rfl
@[simp] theorem setDT_nextInstr (v : Byte) : (s.setDT v).nextInstr = s.nextInstr := rfl

/-! #### setST -/

@[simp] theorem setST_cfg (v : Byte) : (s.setST v).cfg = s.cfg := rfl
@[simp] theorem setST_mem (v : Byte) : (s.setST v).mem = s.mem := rfl
@[simp] theorem setST_pc (v : Byte) : (s.setST v).pc = s.pc := rfl
@[simp] theorem setST_I (v : Byte) : (s.setST v).I = s.I := rfl
@[simp] theorem setST_V (v : Byte) : (s.setST v).V = s.V := rfl
@[simp] theorem setST_stack (v : Byte) : (s.setST v).stack = s.stack := rfl
@[simp] theorem setST_DT (v : Byte) : (s.setST v).DT = s.DT := rfl
@[simp] theorem setST_ST (v : Byte) : (s.setST v).ST = v := rfl
@[simp] theorem setST_FB (v : Byte) : (s.setST v).FB = s.FB := rfl
@[simp] theorem setST_dirty (v : Byte) : (s.setST v).dirty = s.dirty := rfl
@[simp] theorem setST_KEY (v : Byte) : (s.setST v).KEY = s.KEY := rfl
@[simp] theorem setST_mode (v : Byte) : (s.setST v).mode = s.mode := rfl
@[simp] theorem setST_debugEnabled (v : Byte) : (s.setST v).debugEnabled = s.debugEnabled := rfl
@[simp] theorem setST_debugCount (v : Byte) : (s.setST v).debugCount = s.debugCount := rfl
@[simp] theorem setST_randIn (v : Byte) : (s.setST v).randIn = s.randIn := rfl
@[simp] theorem setST_draws (v : Byte) : (s.setST v).draws = s.draws := rfl
@[simp] theorem setST_getV (v : Byte) (q : Reg) : (s.setST v).getV q = s.getV q := rfl
@[simp] theorem setST_byteAt (v : Byte) (b : Nat) : (s.setST v).byteAt b = s.byteAt b := rfl
@[simp] theorem setST_pixel (v : Byte) (x : Fin 64) (y : Fin 32) : (s.setST v).pixel x y = s.pixel x y := rfl
@[simp] theorem setST_fetch (v : Byte) : (s.setST v).fetch = s.fetch := rfl
@[simp] theorem setST_nextInstr (v : Byte) : (s.setST v).nextInstr = s.nextInstr := rfl

/-! #### setFB -/

@[simp] theorem setFB_cfg (fb : Frame) : (s.setFB fb).cfg = s.cfg := rfl
@[simp] theorem setFB_mem (fb : Frame) : (s.setFB fb).mem = s.mem := rfl
@[simp] theorem setFB_pc (fb : Frame) : (s.setFB fb).pc = s.pc := rfl
@[simp] theorem setFB_I (fb : Frame) : (s.setFB fb).I = s.I := rfl
@[simp] theorem setFB_V (fb : Frame) : (s.setFB fb).V = s.V := rfl
@[simp] theorem setFB_stack (fb : Frame) : (s.setFB fb).stack = s.stack := rfl
@[simp] theorem setFB_DT (fb : Frame) : (s.setFB fb).DT = s.DT := rfl
@[simp] theorem setFB_ST (fb : Frame) : (s.setFB fb).ST = s.ST := rfl
@[simp] theorem setFB_FB (fb : Frame) : (s.setFB fb).FB = fb := rfl
@[simp] theorem setFB_dirty (fb : Frame) : (s.setFB fb).dirty = true := rfl
@[simp] theorem setFB_KEY (fb : Frame) : (s.setFB fb).KEY = s.KEY := rfl
@[simp] theorem setFB_mode (fb : Frame) : (s.setFB fb).mode = s.mode := rfl
@[simp] theorem setFB_debugEnabled (fb : Frame) : (s.setFB fb).debugEnabled = s.debugEnabled := rfl
@[simp] theorem setFB_debugCount (fb : Frame) : (s.setFB fb).debugCount = s.debugCount := rfl
@[simp] theorem setFB_randIn (fb : Frame) : (s.setFB fb).randIn = s.randIn := rfl
@[simp] theorem setFB_draws (fb : Frame) : (s.setFB fb).draws = s.draws := rfl
@[simp] theorem setFB_getV (fb : Frame) (q : Reg) : (s.setFB fb).getV q = s.getV q := rfl
@[simp] theorem setFB_byteAt (fb : Frame) (b : Nat) : (s.setFB fb).byteAt b = s.byteAt b := rfl
@[simp] theorem setFB_fetch (fb : Frame) : (s.setFB fb).fetch = s.fetch := rfl
@[simp] theorem setFB_nextInstr (fb : Frame) : (s.setFB fb).nextInstr = s.nextInstr := rfl

/-! #### setStack -/

@[simp] theorem setStack_cfg (st : List Word) : (s.setStack st).cfg = s.cfg := rfl
@[simp] theorem setStack_mem (st : List Word) : (s.setStack st).mem = s.mem := rfl
@[simp] theorem setStack_pc (st : List Word) : (s.setStack st).pc = s.pc := rfl
@[simp] theorem setStack_I (st : List Word) : (s.setStack st).I = s.I := rfl
@[simp] theorem setStack_V (st : List Word) : (s.setStack st).V = s.V := rfl
@[simp] theorem setStack_stack (st : List Word) : (s.setStack st).stack = st := rfl
@[simp] theorem setStack_DT (st : List Word) : (s.setStack st).DT = s.DT := rfl
@[simp] theorem setStack_ST (st : List Word) : (s.setStack st).ST = s.ST := rfl
@[simp] theorem setStack_FB (st : List Word) : (s.setStack st).FB = s.FB := rfl
@[simp] theorem setStack_dirty (st : List Word) : (s.setStack st).dirty = s.dirty := rfl
@[simp] theorem setStack_KEY (st : List Word) : (s.setStack st).KEY = s.KEY := rfl
@[simp] theorem setStack_mode (st : List Word) : (s.setStack st).mode = s.mode := rfl
@[simp] theorem setStack_debugEnabled (st : List Word) : (s.setStack st).debugEnabled = s.debugEnabled := rfl
@[simp] theorem setStack_debugCount (st : List Word) : (s.setStack st).debugCount = s.debugCount := rfl
@[simp] theorem setStack_randIn (st : List Word) : (s.setStack st).randIn = s.randIn := rfl
@[simp] theorem setStack_draws (st : List Word) : (s.setStack st).draws = s.draws := rfl
@[simp] theorem setStack_getV (st : List Word) (q : Reg) : (s.setStack st).getV q = s.getV q := rfl
@[simp] theorem setStack_byteAt (st : List Word) (b : Nat) : (s.setStack st).byteAt b = s.byteAt b := rfl
@[simp] theorem setStack_pixel (st : List Word) (x : Fin 64) (y : Fin 32) : (s.setStack st).pixel x y = s.pixel x y := rfl
@[simp] theorem setStack_fetch (st : List Word) : (s.setStack st).fetch = s.fetch := rfl
@[simp] theorem setStack_nextInstr (st : List Word) : (s.setStack st).nextInstr = s.nextInstr := rfl

/-! #### setMode -/

@[simp] theorem setMode_cfg (m : Mode) : (s.setMode m).cfg = s.cfg := rfl
@[simp] theorem setMode_mem (m : Mode) : (s.setMode m).mem = s.mem := rfl
@[simp] theorem setMode_pc (m : Mode) : (s.setMode m).pc = s.pc := rfl
@[simp] theorem setMode_I (m : Mode) : (s.setMode m).I = s.I := rfl
@[simp] theorem setMode_V (m : Mode) : (s.setMode m).V = s.V := rfl
@[simp] theorem setMode_stack (m : Mode) : (s.setMode m).stack = s.stack := rfl
@[simp] theorem setMode_DT (m : Mode) : (s.setMode m).DT = s.DT := rfl
@[simp] theorem setMode_ST (m : Mode) : (s.setMode m).ST = s.ST := rfl
@[simp] theorem setMode_FB (m : Mode) : (s.setMode m).FB = s.FB := rfl
@[simp] theorem setMode_dirty (m : Mode) : (s.setMode m).dirty = s.dirty := rfl
@[simp] theorem setMode_KEY (m : Mode) : (s.setMode m).KEY = s.KEY := rfl
@[simp] theorem setMode_mode (m : Mode) : (s.setMode m).mode = m := rfl
@[simp] theorem setMode_debugEnabled (m : Mode) : (s.setMode m).debugEnabled = s.debugEnabled := rfl
@[simp] theorem setMode_debugCount (m : Mode) : (s.setMode m).debugCount = s.debugCount := rfl
@[simp] theorem setMode_randIn (m : Mode) : (s.setMode m).randIn = s.randIn := rfl
@[simp] theorem setMode_draws (m : Mode) : (s.setMode m).draws = s.draws := rfl
@[simp] theorem setMode_getV (m : Mode) (q : Reg) : (s.setMode m).getV q = s.getV q := rfl
@[simp] theorem setMode_byteAt (m : Mode) (b : Nat) : (s.setMode m).byteAt b = s.byteAt b := rfl
@[simp] theorem setMode_pixel (m : Mode) (x : Fin 64) (y : Fin 32) : (s.setMode m).pixel x y = s.pixel x y := rfl
@[simp] theorem setMode_fetch (m : Mode) : (s.setMode m).fetch = s.fetch := rfl
@[simp] theorem setMode_nextInstr (m : Mode) : (s.setMode m).nextInstr = s.nextInstr := rfl

/-! #### storeRun -/

@[simp] theorem storeRun_cfg (a : Nat) (bs : List Byte) : (s.storeRun a bs).cfg = s.cfg := rfl
@[simp] theorem storeRun_mem (a : Nat) (bs : List Byte) : (s.storeRun a bs).mem = Memory.writeRun s.cfg s.mem a bs := rfl
@[simp] theorem storeRun_pc (a : Nat) (bs : List Byte) : (s.storeRun a bs).pc = s.pc := rfl
@[simp] theorem storeRun_I (a : Nat) (bs : List Byte) : (s.storeRun a bs).I = s.I := rfl
@[simp] theorem storeRun_V (a : Nat) (bs : List Byte) : (s.storeRun a bs).V = s.V := rfl
@[simp] theorem storeRun_stack (a : Nat) (bs : List Byte) : (s.storeRun a bs).stack = s.stack := rfl
@[simp] theorem storeRun_DT (a : Nat) (bs : List Byte) : (s.storeRun a bs).DT = s.DT := rfl
@[simp] theorem storeRun_ST (a : Nat) (bs : List Byte) : (s.storeRun a bs).ST = s.ST := rfl
@[simp] theorem storeRun_FB (a : Nat) (bs : List Byte) : (s.storeRun a bs).FB = s.FB := rfl
@[simp] theorem storeRun_dirty (a : Nat) (bs : List Byte) : (s.storeRun a bs).dirty = s.dirty := rfl
@[simp] theorem storeRun_KEY (a : Nat) (bs : List Byte) : (s.storeRun a bs).KEY = s.KEY := rfl
@[simp] theorem storeRun_mode (a : Nat) (bs : List Byte) : (s.storeRun a bs).mode = s.mode := rfl
@[simp] theorem storeRun_debugEnabled (a : Nat) (bs : List Byte) : (s.storeRun a bs).debugEnabled = s.debugEnabled := rfl
@[simp] theorem storeRun_debugCount (a : Nat) (bs : List Byte) : (s.storeRun a bs).debugCount = s.debugCount := rfl
@[simp] theorem storeRun_randIn (a : Nat) (bs : List Byte) : (s.storeRun a bs).randIn = s.randIn := rfl
@[simp] theorem storeRun_draws (a : Nat) (bs : List Byte) : (s.storeRun a bs).draws = s.draws := rfl
@[simp] theorem storeRun_getV (a : Nat) (bs : List Byte) (q : Reg) : (s.storeRun a bs).getV q = s.getV q := rfl
@[simp] theorem storeRun_pixel (a : Nat) (bs : List Byte) (x : Fin 64) (y : Fin 32) : (s.storeRun a bs).pixel x y = s.pixel x y := rfl

/-! #### drawn -/

@[simp] theorem drawn_cfg : (s.drawn).cfg = s.cfg := rfl
@[simp] theorem drawn_mem : (s.drawn).mem = s.mem := rfl
@[simp] theorem drawn_pc : (s.drawn).pc = s.pc := rfl
@[simp] theorem drawn_I : (s.drawn).I = s.I := rfl
@[simp] theorem drawn_V : (s.drawn).V = s.V := rfl
@[simp] theorem drawn_stack : (s.drawn).stack = s.stack := rfl
@[simp] theorem drawn_DT : (s.drawn).DT = s.DT := rfl
@[simp] theorem drawn_ST : (s.drawn).ST = s.ST := rfl
@[simp] theorem drawn_FB : (s.drawn).FB = s.FB := rfl
@[simp] theorem drawn_dirty : (s.drawn).dirty = s.dirty := rfl
@[simp] theorem drawn_KEY : (s.drawn).KEY = s.KEY := rfl
@[simp] theorem drawn_mode : (s.drawn).mode = s.mode := rfl
@[simp] theorem drawn_debugEnabled : (s.drawn).debugEnabled = s.debugEnabled := rfl
@[simp] theorem drawn_debugCount : (s.drawn).debugCount = s.debugCount := rfl
@[simp] theorem drawn_randIn : (s.drawn).randIn = none := rfl
@[simp] theorem drawn_draws : (s.drawn).draws = s.draws + 1 := rfl
@[simp] theorem drawn_getV (q : Reg) : (s.drawn).getV q = s.getV q := rfl
@[simp] theorem drawn_byteAt (b : Nat) : (s.drawn).byteAt b = s.byteAt b := rfl
@[simp] theorem drawn_pixel (x : Fin 64) (y : Fin 32) : (s.drawn).pixel x y = s.pixel x y := rfl
@[simp] theorem drawn_fetch : (s.drawn).fetch = s.fetch := rfl
@[simp] theorem drawn_nextInstr : (s.drawn).nextInstr = s.nextInstr := rfl

/-! #### advance -/

@[simp] theorem advance_cfg : (s.advance).cfg = s.cfg := rfl
@[simp] theorem advance_mem : (s.advance).mem = s.mem := rfl
@[simp] theorem advance_pc : (s.advance).pc = s.pc + 2 := rfl
@[simp] theorem advance_I : (s.advance).I = s.I := rfl
@[simp] theorem advance_V : (s.advance).V = s.V := rfl
@[simp] theorem advance_stack : (s.advance).stack = s.stack := rfl
@[simp] theorem advance_DT : (s.advance).DT = s.DT := rfl
@[simp] theorem advance_ST : (s.advance).ST = s.ST := rfl
@[simp] theorem advance_FB : (s.advance).FB = s.FB := rfl
@[simp] theorem advance_dirty : (s.advance).dirty = s.dirty := rfl
@[simp] theorem advance_KEY : (s.advance).KEY = s.KEY := rfl
@[simp] theorem advance_mode : (s.advance).mode = s.mode := rfl
@[simp] theorem advance_debugEnabled : (s.advance).debugEnabled = s.debugEnabled := rfl
@[simp] theorem advance_debugCount : (s.advance).debugCount = s.debugCount := rfl
@[simp] theorem advance_randIn : (s.advance).randIn = s.randIn := rfl
@[simp] theorem advance_draws : (s.advance).draws = s.draws := rfl
@[simp] theorem advance_getV (q : Reg) : (s.advance).getV q = s.getV q := rfl
@[simp] theorem advance_byteAt (b : Nat) : (s.advance).byteAt b = s.byteAt b := rfl
@[simp] theorem advance_pixel (x : Fin 64) (y : Fin 32) : (s.advance).pixel x y = s.pixel x y := rfl

/-! #### takeFault -/

@[simp] theorem takeFault_cfg (c : Fault) : (s.takeFault c).cfg = s.cfg := rfl
@[simp] theorem takeFault_mem (c : Fault) : (s.takeFault c).mem = s.mem := rfl
@[simp] theorem takeFault_pc (c : Fault) : (s.takeFault c).pc = s.pc := rfl
@[simp] theorem takeFault_I (c : Fault) : (s.takeFault c).I = s.I := rfl
@[simp] theorem takeFault_V (c : Fault) : (s.takeFault c).V = s.V := rfl
@[simp] theorem takeFault_stack (c : Fault) : (s.takeFault c).stack = s.stack := rfl
@[simp] theorem takeFault_DT (c : Fault) : (s.takeFault c).DT = s.DT := rfl
@[simp] theorem takeFault_ST (c : Fault) : (s.takeFault c).ST = s.ST := rfl
@[simp] theorem takeFault_FB (c : Fault) : (s.takeFault c).FB = s.FB := rfl
@[simp] theorem takeFault_dirty (c : Fault) : (s.takeFault c).dirty = s.dirty := rfl
@[simp] theorem takeFault_KEY (c : Fault) : (s.takeFault c).KEY = s.KEY := rfl
@[simp] theorem takeFault_mode (c : Fault) : (s.takeFault c).mode = .faulted c := rfl
@[simp] theorem takeFault_debugEnabled (c : Fault) : (s.takeFault c).debugEnabled = s.debugEnabled := rfl
@[simp] theorem takeFault_debugCount (c : Fault) : (s.takeFault c).debugCount = s.debugCount := rfl
@[simp] theorem takeFault_randIn (c : Fault) : (s.takeFault c).randIn = s.randIn := rfl
@[simp] theorem takeFault_draws (c : Fault) : (s.takeFault c).draws = s.draws := rfl
@[simp] theorem takeFault_getV (c : Fault) (q : Reg) : (s.takeFault c).getV q = s.getV q := rfl
@[simp] theorem takeFault_byteAt (c : Fault) (b : Nat) : (s.takeFault c).byteAt b = s.byteAt b := rfl
@[simp] theorem takeFault_pixel (c : Fault) (x : Fin 64) (y : Fin 32) : (s.takeFault c).pixel x y = s.pixel x y := rfl
@[simp] theorem takeFault_fetch (c : Fault) : (s.takeFault c).fetch = s.fetch := rfl
@[simp] theorem takeFault_nextInstr (c : Fault) : (s.takeFault c).nextInstr = s.nextInstr := rfl

/-! #### setKeyState -/

@[simp] theorem setKeyState_cfg (k : Word) : (s.setKeyState k).cfg = s.cfg := rfl
@[simp] theorem setKeyState_mem (k : Word) : (s.setKeyState k).mem = s.mem := rfl
@[simp] theorem setKeyState_pc (k : Word) : (s.setKeyState k).pc = s.pc := rfl
@[simp] theorem setKeyState_I (k : Word) : (s.setKeyState k).I = s.I := rfl
@[simp] theorem setKeyState_V (k : Word) : (s.setKeyState k).V = s.V := rfl
@[simp] theorem setKeyState_stack (k : Word) : (s.setKeyState k).stack = s.stack := rfl
@[simp] theorem setKeyState_DT (k : Word) : (s.setKeyState k).DT = s.DT := rfl
@[simp] theorem setKeyState_ST (k : Word) : (s.setKeyState k).ST = s.ST := rfl
@[simp] theorem setKeyState_FB (k : Word) : (s.setKeyState k).FB = s.FB := rfl
@[simp] theorem setKeyState_dirty (k : Word) : (s.setKeyState k).dirty = s.dirty := rfl
@[simp] theorem setKeyState_KEY (k : Word) : (s.setKeyState k).KEY = k := rfl
@[simp] theorem setKeyState_mode (k : Word) : (s.setKeyState k).mode = s.mode := rfl
@[simp] theorem setKeyState_debugEnabled (k : Word) : (s.setKeyState k).debugEnabled = s.debugEnabled := rfl
@[simp] theorem setKeyState_debugCount (k : Word) : (s.setKeyState k).debugCount = s.debugCount := rfl
@[simp] theorem setKeyState_randIn (k : Word) : (s.setKeyState k).randIn = s.randIn := rfl
@[simp] theorem setKeyState_draws (k : Word) : (s.setKeyState k).draws = s.draws := rfl
@[simp] theorem setKeyState_getV (k : Word) (q : Reg) : (s.setKeyState k).getV q = s.getV q := rfl
@[simp] theorem setKeyState_byteAt (k : Word) (b : Nat) : (s.setKeyState k).byteAt b = s.byteAt b := rfl
@[simp] theorem setKeyState_pixel (k : Word) (x : Fin 64) (y : Fin 32) : (s.setKeyState k).pixel x y = s.pixel x y := rfl
@[simp] theorem setKeyState_fetch (k : Word) : (s.setKeyState k).fetch = s.fetch := rfl
@[simp] theorem setKeyState_nextInstr (k : Word) : (s.setKeyState k).nextInstr = s.nextInstr := rfl

/-! #### advanceTimers -/

@[simp] theorem advanceTimers_cfg : (s.advanceTimers).cfg = s.cfg := rfl
@[simp] theorem advanceTimers_mem : (s.advanceTimers).mem = s.mem := rfl
@[simp] theorem advanceTimers_pc : (s.advanceTimers).pc = s.pc := rfl
@[simp] theorem advanceTimers_I : (s.advanceTimers).I = s.I := rfl
@[simp] theorem advanceTimers_V : (s.advanceTimers).V = s.V := rfl
@[simp] theorem advanceTimers_stack : (s.advanceTimers).stack = s.stack := rfl
@[simp] theorem advanceTimers_DT : (s.advanceTimers).DT = tick s.DT := rfl
@[simp] theorem advanceTimers_ST : (s.advanceTimers).ST = tick s.ST := rfl
@[simp] theorem advanceTimers_FB : (s.advanceTimers).FB = s.FB := rfl
@[simp] theorem advanceTimers_dirty : (s.advanceTimers).dirty = s.dirty := rfl
@[simp] theorem advanceTimers_KEY : (s.advanceTimers).KEY = s.KEY := rfl
@[simp] theorem advanceTimers_mode : (s.advanceTimers).mode = s.mode := rfl
@[simp] theorem advanceTimers_debugEnabled : (s.advanceTimers).debugEnabled = s.debugEnabled := rfl
@[simp] theorem advanceTimers_debugCount : (s.advanceTimers).debugCount = s.debugCount := rfl
@[simp] theorem advanceTimers_randIn : (s.advanceTimers).randIn = s.randIn := rfl
@[simp] theorem advanceTimers_draws : (s.advanceTimers).draws = s.draws := rfl
@[simp] theorem advanceTimers_getV (q : Reg) : (s.advanceTimers).getV q = s.getV q := rfl
@[simp] theorem advanceTimers_byteAt (b : Nat) : (s.advanceTimers).byteAt b = s.byteAt b := rfl
@[simp] theorem advanceTimers_pixel (x : Fin 64) (y : Fin 32) : (s.advanceTimers).pixel x y = s.pixel x y := rfl
@[simp] theorem advanceTimers_fetch : (s.advanceTimers).fetch = s.fetch := rfl
@[simp] theorem advanceTimers_nextInstr : (s.advanceTimers).nextInstr = s.nextInstr := rfl

/-! #### redrawn -/

@[simp] theorem redrawn_cfg : (s.redrawn).cfg = s.cfg := rfl
@[simp] theorem redrawn_mem : (s.redrawn).mem = s.mem := rfl
@[simp] theorem redrawn_pc : (s.redrawn).pc = s.pc := rfl
@[simp] theorem redrawn_I : (s.redrawn).I = s.I := rfl
@[simp] theorem redrawn_V : (s.redrawn).V = s.V := rfl
@[simp] theorem redrawn_stack : (s.redrawn).stack = s.stack := rfl
@[simp] theorem redrawn_DT : (s.redrawn).DT = s.DT := rfl
@[simp] theorem redrawn_ST : (s.redrawn).ST = s.ST := rfl
@[simp] theorem redrawn_FB : (s.redrawn).FB = s.FB := rfl
@[simp] theorem redrawn_dirty : (s.redrawn).dirty = false := rfl
@[simp] theorem redrawn_KEY : (s.redrawn).KEY = s.KEY := rfl
@[simp] theorem redrawn_mode : (s.redrawn).mode = s.mode := rfl
@[simp] theorem redrawn_debugEnabled : (s.redrawn).debugEnabled = s.debugEnabled := rfl
@[simp] theorem redrawn_debugCount : (s.redrawn).debugCount = s.debugCount := rfl
@[simp] theorem redrawn_randIn : (s.redrawn).randIn = s.randIn := rfl
@[simp] theorem redrawn_draws : (s.redrawn).draws = s.draws := rfl
@[simp] theorem redrawn_getV (q : Reg) : (s.redrawn).getV q = s.getV q := rfl
@[simp] theorem redrawn_byteAt (b : Nat) : (s.redrawn).byteAt b = s.byteAt b := rfl
@[simp] theorem redrawn_pixel (x : Fin 64) (y : Fin 32) : (s.redrawn).pixel x y = s.pixel x y := rfl
@[simp] theorem redrawn_fetch : (s.redrawn).fetch = s.fetch := rfl
@[simp] theorem redrawn_nextInstr : (s.redrawn).nextInstr = s.nextInstr := rfl

/-! #### enableDebug -/

@[simp] theorem enableDebug_cfg (c : Nat) : (s.enableDebug c).cfg = s.cfg := rfl
@[simp] theorem enableDebug_mem (c : Nat) : (s.enableDebug c).mem = s.mem := rfl
@[simp] theorem enableDebug_pc (c : Nat) : (s.enableDebug c).pc = s.pc := rfl
@[simp] theorem enableDebug_I (c : Nat) : (s.enableDebug c).I = s.I := rfl
@[simp] theorem enableDebug_V (c : Nat) : (s.enableDebug c).V = s.V := rfl
@[simp] theorem enableDebug_stack (c : Nat) : (s.enableDebug c).stack = s.stack := rfl
@[simp] theorem enableDebug_DT (c : Nat) : (s.enableDebug c).DT = s.DT := rfl
@[simp] theorem enableDebug_ST (c : Nat) : (s.enableDebug c).ST = s.ST := rfl
@[simp] theorem enableDebug_FB (c : Nat) : (s.enableDebug c).FB = s.FB := rfl
@[simp] theorem enableDebug_dirty (c : Nat) : (s.enableDebug c).dirty = s.dirty := rfl
@[simp] theorem enableDebug_KEY (c : Nat) : (s.enableDebug c).KEY = s.KEY := rfl
@[simp] theorem enableDebug_mode (c : Nat) : (s.enableDebug c).mode = s.mode := rfl
@[simp] theorem enableDebug_debugEnabled (c : Nat) : (s.enableDebug c).debugEnabled = true := rfl
@[simp] theorem enableDebug_debugCount (c : Nat) : (s.enableDebug c).debugCount = c := rfl
@[simp] theorem enableDebug_randIn (c : Nat) : (s.enableDebug c).randIn = s.randIn := rfl
@[simp] theorem enableDebug_draws (c : Nat) : (s.enableDebug c).draws = s.draws := rfl
@[simp] theorem enableDebug_getV (c : Nat) (q : Reg) : (s.enableDebug c).getV q = s.getV q := rfl
@[simp] theorem enableDebug_byteAt (c : Nat) (b : Nat) : (s.enableDebug c).byteAt b = s.byteAt b := rfl
@[simp] theorem enableDebug_pixel (c : Nat) (x : Fin 64) (y : Fin 32) : (s.enableDebug c).pixel x y = s.pixel x y := rfl
@[simp] theorem enableDebug_fetch (c : Nat) : (s.enableDebug c).fetch = s.fetch := rfl
@[simp] theorem enableDebug_nextInstr (c : Nat) : (s.enableDebug c).nextInstr = s.nextInstr := rfl

/-! #### supply -/

@[simp] theorem supply_cfg (r : Byte) : (s.supply r).cfg = s.cfg := rfl
@[simp] theorem supply_mem (r : Byte) : (s.supply r).mem = s.mem := rfl
@[simp] theorem supply_pc (r : Byte) : (s.supply r).pc = s.pc := rfl
@[simp] theorem supply_I (r : Byte) : (s.supply r).I = s.I := rfl
@[simp] theorem supply_V (r : Byte) : (s.supply r).V = s.V := rfl
@[simp] theorem supply_stack (r : Byte) : (s.supply r).stack = s.stack := rfl
@[simp] theorem supply_DT (r : Byte) : (s.supply r).DT = s.DT := rfl
@[simp] theorem supply_ST (r : Byte) : (s.supply r).ST = s.ST := rfl
@[simp] theorem supply_FB (r : Byte) : (s.supply r).FB = s.FB := rfl
@[simp] theorem supply_dirty (r : Byte) : (s.supply r).dirty = s.dirty := rfl
@[simp] theorem supply_KEY (r : Byte) : (s.supply r).KEY = s.KEY := rfl
@[simp] theorem supply_mode (r : Byte) : (s.supply r).mode = s.mode := rfl
@[simp] theorem supply_debugEnabled (r : Byte) : (s.supply r).debugEnabled = s.debugEnabled := rfl
@[simp] theorem supply_debugCount (r : Byte) : (s.supply r).debugCount = s.debugCount := rfl
@[simp] theorem supply_randIn (r : Byte) : (s.supply r).randIn = some r := rfl
@[simp] theorem supply_draws (r : Byte) : (s.supply r).draws = s.draws := rfl
@[simp] theorem supply_getV (r : Byte) (q : Reg) : (s.supply r).getV q = s.getV q := rfl
@[simp] theorem supply_byteAt (r : Byte) (b : Nat) : (s.supply r).byteAt b = s.byteAt b := rfl
@[simp] theorem supply_pixel (r : Byte) (x : Fin 64) (y : Fin 32) : (s.supply r).pixel x y = s.pixel x y := rfl
@[simp] theorem supply_fetch (r : Byte) : (s.supply r).fetch = s.fetch := rfl
@[simp] theorem supply_nextInstr (r : Byte) : (s.supply r).nextInstr = s.nextInstr := rfl

/-! #### unsupply -/

@[simp] theorem unsupply_cfg : (s.unsupply).cfg = s.cfg := rfl
@[simp] theorem unsupply_mem : (s.unsupply).mem = s.mem := rfl
@[simp] theorem unsupply_pc : (s.unsupply).pc = s.pc := rfl
@[simp] theorem unsupply_I : (s.unsupply).I = s.I := rfl
@[simp] theorem unsupply_V : (s.unsupply).V = s.V := rfl
@[simp] theorem unsupply_stack : (s.unsupply).stack = s.stack := rfl
@[simp] theorem unsupply_DT : (s.unsupply).DT = s.DT := rfl
@[simp] theorem unsupply_ST : (s.unsupply).ST = s.ST := rfl
@[simp] theorem unsupply_FB : (s.unsupply).FB = s.FB := rfl
@[simp] theorem unsupply_dirty : (s.unsupply).dirty = s.dirty := rfl
@[simp] theorem unsupply_KEY : (s.unsupply).KEY = s.KEY := rfl
@[simp] theorem unsupply_mode : (s.unsupply).mode = s.mode := rfl
@[simp] theorem unsupply_debugEnabled : (s.unsupply).debugEnabled = s.debugEnabled := rfl
@[simp] theorem unsupply_debugCount : (s.unsupply).debugCount = s.debugCount := rfl
@[simp] theorem unsupply_randIn : (s.unsupply).randIn = none := rfl
@[simp] theorem unsupply_draws : (s.unsupply).draws = s.draws := rfl
@[simp] theorem unsupply_getV (q : Reg) : (s.unsupply).getV q = s.getV q := rfl
@[simp] theorem unsupply_byteAt (b : Nat) : (s.unsupply).byteAt b = s.byteAt b := rfl
@[simp] theorem unsupply_pixel (x : Fin 64) (y : Fin 32) : (s.unsupply).pixel x y = s.pixel x y := rfl
@[simp] theorem unsupply_fetch : (s.unsupply).fetch = s.fetch := rfl
@[simp] theorem unsupply_nextInstr : (s.unsupply).nextInstr = s.nextInstr := rfl

/-! #### zeroed: the reset values of R38 -/

@[simp] theorem zeroed_cfg : s.zeroed.cfg = s.cfg := rfl
@[simp] theorem zeroed_mem : s.zeroed.mem = [] := rfl
@[simp] theorem zeroed_pc : s.zeroed.pc = 0x200 := rfl
@[simp] theorem zeroed_I : s.zeroed.I = 0 := rfl
@[simp] theorem zeroed_V : s.zeroed.V = Vector.replicate 16 0 := rfl
@[simp] theorem zeroed_stack : s.zeroed.stack = [] := rfl
@[simp] theorem zeroed_DT : s.zeroed.DT = 0 := rfl
@[simp] theorem zeroed_ST : s.zeroed.ST = 0 := rfl
@[simp] theorem zeroed_FB : s.zeroed.FB = Vector.replicate 32 0 := rfl
@[simp] theorem zeroed_dirty : s.zeroed.dirty = false := rfl
@[simp] theorem zeroed_KEY : s.zeroed.KEY = 0 := rfl
@[simp] theorem zeroed_mode : s.zeroed.mode = .running := rfl
@[simp] theorem zeroed_debugEnabled : s.zeroed.debugEnabled = false := rfl
@[simp] theorem zeroed_debugCount : s.zeroed.debugCount = 0 := rfl
@[simp] theorem zeroed_randIn : s.zeroed.randIn = none := rfl
@[simp] theorem zeroed_draws : s.zeroed.draws = s.draws := rfl
@[simp] theorem zeroed_byteAt (b : Nat) : s.zeroed.byteAt b = resetByte s.cfg b := rfl
@[simp] theorem zeroed_getV (q : Reg) : s.zeroed.getV q = 0 := by simp [getV]
@[simp] theorem zeroed_pixel (x : Fin 64) (y : Fin 32) : s.zeroed.pixel x y = false := by simp [pixel, Frame.pixel]

/-! #### countInstr: only debug_count (R78) -/

theorem countInstr_eq : s.countInstr = s ∨ s.countInstr = { s with debugCount := s.debugCount + 1 } := by
  unfold countInstr
  split
  · exact .inl rfl
  all_goals split <;> simp

@[simp] theorem countInstr_cfg : s.countInstr.cfg = s.cfg := by
  rcases countInstr_eq s with h | h <;> rw [h]
@[simp] theorem countInstr_mem : s.countInstr.mem = s.mem := by
  rcases countInstr_eq s with h | h <;> rw [h]
@[simp] theorem countInstr_pc : s.countInstr.pc = s.pc := by
  rcases countInstr_eq s with h | h <;> rw [h]
@[simp] theorem countInstr_I : s.countInstr.I = s.I := by
  rcases countInstr_eq s with h | h <;> rw [h]
@[simp] theorem countInstr_V : s.countInstr.V = s.V := by
  rcases countInstr_eq s with h | h <;> rw [h]
@[simp] theorem countInstr_stack : s.countInstr.stack = s.stack := by
  rcases countInstr_eq s with h | h <;> rw [h]
@[simp] theorem countInstr_DT : s.countInstr.DT = s.DT := by
  rcases countInstr_eq s with h | h <;> rw [h]
@[simp] theorem countInstr_ST : s.countInstr.ST = s.ST := by
  rcases countInstr_eq s with h | h <;> rw [h]
@[simp] theorem countInstr_FB : s.countInstr.FB = s.FB := by
  rcases countInstr_eq s with h | h <;> rw [h]
@[simp] theorem countInstr_dirty : s.countInstr.dirty = s.dirty := by
  rcases countInstr_eq s with h | h <;> rw [h]
@[simp] theorem countInstr_KEY : s.countInstr.KEY = s.KEY := by
  rcases countInstr_eq s with h | h <;> rw [h]
@[simp] theorem countInstr_mode : s.countInstr.mode = s.mode := by
  rcases countInstr_eq s with h | h <;> rw [h]
@[simp] theorem countInstr_debugEnabled : s.countInstr.debugEnabled = s.debugEnabled := by
  rcases countInstr_eq s with h | h <;> rw [h]
@[simp] theorem countInstr_randIn : s.countInstr.randIn = s.randIn := by
  rcases countInstr_eq s with h | h <;> rw [h]
@[simp] theorem countInstr_draws : s.countInstr.draws = s.draws := by
  rcases countInstr_eq s with h | h <;> rw [h]
@[simp] theorem countInstr_getV (q : Reg) : s.countInstr.getV q = s.getV q := by
  rcases countInstr_eq s with h | h
  · rw [h]
  · rw [h]; rfl
@[simp] theorem countInstr_byteAt (b : Nat) : s.countInstr.byteAt b = s.byteAt b := by
  rcases countInstr_eq s with h | h
  · rw [h]
  · rw [h]; rfl
@[simp] theorem countInstr_pixel (x : Fin 64) (y : Fin 32) : s.countInstr.pixel x y = s.pixel x y := by
  rcases countInstr_eq s with h | h
  · rw [h]
  · rw [h]; rfl
@[simp] theorem countInstr_fetch : s.countInstr.fetch = s.fetch := by
  rcases countInstr_eq s with h | h
  · rw [h]
  · rw [h]; rfl
@[simp] theorem countInstr_nextInstr : s.countInstr.nextInstr = s.nextInstr := by
  rcases countInstr_eq s with h | h
  · rw [h]
  · rw [h]; rfl

theorem countInstr_debugCount (h : ∀ c, s.mode ≠ .faulted c) :
    s.countInstr.debugCount = if s.debugEnabled then s.debugCount + 1 else s.debugCount := by
  unfold countInstr
  split
  · rename_i c hc
    exact absurd hc (h c)
  all_goals split <;> simp_all

/-- A fault is not counted (R78). -/
@[simp] theorem countInstr_takeFault (c : Fault) : (s.takeFault c).countInstr = s.takeFault c := rfl

/-! #### skipIf: only pc -/

theorem skipIf_eq (c : Bool) : s.skipIf c = s.setPc (if c then s.pc + 4 else s.pc + 2) := by
  cases c
  · rfl
  · show s.setPc (s.pc + 2 + 2) = s.setPc (s.pc + 4)
    congr 1
    rw [BitVec.add_assoc]
    rfl

/-! #### Reading a register after writing one -/

@[simp] theorem getV_setV_same (r : Reg) (v : Byte) : (s.setV r v).getV r = v := by
  simp [getV, setV]

theorem getV_setV_ne {r q : Reg} (v : Byte) (h : q ≠ r) : (s.setV r v).getV q = s.getV q := by
  have h' : r.val ≠ q.val := fun e => h (Fin.ext e.symm)
  simp only [getV, setV]
  exact Vector.getElem_set_ne _ _ h'

theorem getV_setV (r q : Reg) (v : Byte) : (s.setV r v).getV q = if q = r then v else s.getV q := by
  by_cases h : q = r
  · subst h; simp
  · simp [h, getV_setV_ne s v h]

/-- Two states with the same registers one by one have the same register file. -/
theorem V_ext {s t : State} (h : ∀ r, s.getV r = t.getV r) : s.V = t.V := by
  apply Vector.ext
  intro i hi
  exact h ⟨i, hi⟩

theorem FB_ext {s t : State} (h : ∀ x y, s.pixel x y = t.pixel x y) : s.FB = t.FB := by
  apply Vector.ext
  intro i hi
  apply BitVec.eq_of_getLsbD_eq
  intro k hk
  exact h ⟨k, hk⟩ ⟨i, hi⟩

end Sys2Proof.Machine.State
end

