-- ==== Sys2Proof/Laws/Memory.lean ====
section
/-! SUPPORT. What the memory operations do: reading after writing, the bytes that a run of writes leaves alone, and that every
operation keeps the canonical form. -/

namespace Sys2Proof.Machine.Memory

variable (c : Config)

@[simp] theorem read_nil (a : Nat) : read c [] a = resetByte c a := rfl

@[simp] theorem read_cons (b : Nat) (w : Byte) (m : Memory) (a : Nat) :
    read c ((b, w) :: m) a = if a = b then w else read c m a := rfl

@[simp] theorem wfFrom_nil (lo : Nat) : wfFrom c lo [] = true := rfl

@[simp] theorem wfFrom_cons (lo a : Nat) (v : Byte) (m : Memory) :
    wfFrom c lo ((a, v) :: m) = true ↔ lo ≤ a ∧ a < 4096 ∧ v ≠ resetByte c a ∧ wfFrom c (a + 1) m = true := by
  simp [wfFrom, and_assoc]

theorem wfFrom_mono {c : Config} {lo lo' : Nat} {m : Memory} (h : wfFrom c lo m = true) (hl : lo' ≤ lo) :
    wfFrom c lo' m = true := by
  cases m with
  | nil => rfl
  | cons e m =>
    obtain ⟨a, v⟩ := e
    rw [wfFrom_cons] at h ⊢
    exact ⟨hl.trans h.1, h.2⟩

/-- Below the first address of the list every byte has its reset value. -/
theorem read_of_lt {c : Config} {lo a : Nat} {m : Memory} (h : wfFrom c lo m = true) (ha : a < lo) :
    read c m a = resetByte c a := by
  induction m generalizing lo with
  | nil => rfl
  | cons e m ih =>
    obtain ⟨b, w⟩ := e
    rw [wfFrom_cons] at h
    rw [read_cons, if_neg (by omega)]
    exact ih h.2.2.2 (by omega)

/-- Reading after one write, from the address lo on. -/
theorem read_write_from {c : Config} {lo a b : Nat} {v : Byte} {m : Memory} (h : wfFrom c lo m = true) :
    read c (write c m a v) b = if b = a then v else read c m b := by
  induction m generalizing lo with
  | nil =>
    rw [write]
    split
    · split <;> simp_all
    · rfl
  | cons e m ih =>
    obtain ⟨d, w⟩ := e
    rw [wfFrom_cons] at h
    have hd : read c m d = resetByte c d := read_of_lt h.2.2.2 (by omega)
    rw [write]
    split
    · rename_i had
      have ha : read c m a = resetByte c a := read_of_lt h.2.2.2 (by omega)
      split
      · split
        · subst_vars; rw [read_cons, if_neg (by omega), ha]
        · rfl
      · rfl
    · split
      · subst_vars
        split
        · split
          · subst_vars; rw [hd]
          · rename_i hb
            rw [read_cons, if_neg hb]
        · rename_i hv
          rw [read_cons, read_cons]
          split <;> rfl
      · rw [read_cons, read_cons, ih h.2.2.2]
        split
        · rename_i hb
          rw [if_neg (by omega)]
        · rfl

/-- A write leaves every other address alone, in any list. -/
theorem read_write_ne {c : Config} {a b : Nat} (v : Byte) (m : Memory) (hb : b ≠ a) :
    read c (write c m a v) b = read c m b := by
  induction m with
  | nil =>
    rw [write]
    split
    · rfl
    · rw [read_cons, if_neg hb]
  | cons e m ih =>
    obtain ⟨d, w⟩ := e
    rw [write]
    split
    · split
      · rfl
      · rw [read_cons, if_neg hb]
    · split
      · subst_vars
        split
        · rw [read_cons, if_neg hb]
        · rw [read_cons, read_cons, if_neg hb, if_neg hb]
      · rw [read_cons, read_cons, ih]

/-- A write keeps the canonical form, from the address lo on. -/
theorem write_wfFrom {c : Config} {lo a : Nat} {v : Byte} {m : Memory} (h : wfFrom c lo m = true) (hlo : lo ≤ a)
    (ha : a < 4096) : wfFrom c lo (write c m a v) = true := by
  induction m generalizing lo with
  | nil =>
    rw [write]
    split
    · rfl
    · rw [wfFrom_cons]; exact ⟨hlo, ha, ‹_›, rfl⟩
  | cons e m ih =>
    obtain ⟨d, w⟩ := e
    have h' := (wfFrom_cons c lo d w m).mp h
    rw [write]
    split
    · split
      · exact h
      · rw [wfFrom_cons, wfFrom_cons]
        exact ⟨hlo, ha, ‹_›, by omega, h'.2.1, h'.2.2⟩
    · split
      · split
        · exact wfFrom_mono h'.2.2.2 (by omega)
        · rw [wfFrom_cons]
          subst_vars
          exact ⟨hlo, ha, ‹_›, h'.2.2.2⟩
      · rw [wfFrom_cons]
        exact ⟨h'.1, h'.2.1, h'.2.2.1, ih h'.2.2.2 (by omega)⟩

/-- Reading after one write (R41, R42, R50). -/
theorem read_write {c : Config} {m : Memory} (h : wf c m = true) (a b : Nat) (v : Byte) :
    read c (write c m a v) b = if b = a then v else read c m b :=
  read_write_from h

/-- One write keeps the canonical form. -/
theorem write_wf {c : Config} {m : Memory} (h : wf c m = true) {a : Nat} (ha : a < 4096) (v : Byte) :
    wf c (write c m a v) = true :=
  write_wfFrom h (Nat.zero_le a) ha

@[simp] theorem writeRun_nil (m : Memory) (a : Nat) : writeRun c m a [] = m := rfl

@[simp] theorem writeRun_cons (m : Memory) (a : Nat) (v : Byte) (vs : List Byte) :
    writeRun c m a (v :: vs) = writeRun c (write c m a v) (a + 1) vs := rfl

/-- A run of writes inside the address space keeps the canonical form. -/
theorem writeRun_wf {c : Config} {m : Memory} (h : wf c m = true) {a : Nat} {bs : List Byte}
    (ha : a + bs.length ≤ 4096) : wf c (writeRun c m a bs) = true := by
  induction bs generalizing m a with
  | nil => exact h
  | cons v vs ih =>
    rw [List.length_cons] at ha
    exact ih (write_wf h (by omega) v) (by omega)

/-- Reading after a run of writes: the bytes of the run where it wrote, the old byte elsewhere. -/
theorem read_writeRun {c : Config} {m : Memory} (h : wf c m = true) {a : Nat} {bs : List Byte}
    (ha : a + bs.length ≤ 4096) (b : Nat) :
    read c (writeRun c m a bs) b = if a ≤ b ∧ b < a + bs.length then bs.getD (b - a) 0 else read c m b := by
  induction bs generalizing m a with
  | nil => rw [writeRun_nil, if_neg (by simp)]
  | cons v vs ih =>
    rw [List.length_cons] at ha ⊢
    rw [writeRun_cons, ih (write_wf h (by omega) v) (by omega), read_write h]
    by_cases h1 : b = a
    · subst h1
      rw [if_neg (by omega), if_pos rfl, if_pos (by omega)]
      simp
    · by_cases h2 : a + 1 ≤ b ∧ b < a + 1 + vs.length
      · rw [if_pos h2, if_pos (by omega)]
        obtain ⟨k, hk⟩ : ∃ k, b - a = k + 1 := ⟨b - a - 1, by omega⟩
        rw [hk, show b - (a + 1) = k by omega]
        simp
      · rw [if_neg h2, if_neg h1, if_neg (by omega)]

/-- A run of writes leaves every address outside it alone, in any list. -/
theorem read_writeRun_outside {c : Config} {b : Nat} (bs : List Byte) (m : Memory) (a : Nat)
    (hb : b < a ∨ a + bs.length ≤ b) : read c (writeRun c m a bs) b = read c m b := by
  induction bs generalizing m a with
  | nil => rfl
  | cons v vs ih =>
    rw [List.length_cons] at hb
    rw [writeRun_cons, ih _ _ (by omega), read_write_ne v m (by omega)]

end Sys2Proof.Machine.Memory

namespace Sys2Proof.Machine.State

/-- Reading one byte after a run of stores. -/
theorem byteAt_storeRun {s : State} (h : Memory.wf s.cfg s.mem = true) {a : Nat} {bs : List Byte}
    (ha : a + bs.length ≤ 4096) (b : Nat) :
    (s.storeRun a bs).byteAt b = if a ≤ b ∧ b < a + bs.length then bs.getD (b - a) 0 else s.byteAt b :=
  Memory.read_writeRun h ha b

/-- A run of stores leaves every address outside it alone. -/
theorem byteAt_storeRun_outside (s : State) {a b : Nat} (bs : List Byte) (hb : b < a ∨ a + bs.length ≤ b) :
    (s.storeRun a bs).byteAt b = s.byteAt b :=
  Memory.read_writeRun_outside bs s.mem a hb

/-- A run of stores inside the address space keeps the canonical form. -/
theorem storeRun_wf {s : State} (h : Memory.wf s.cfg s.mem = true) {a : Nat} {bs : List Byte}
    (ha : a + bs.length ≤ 4096) : Memory.wf (s.storeRun a bs).cfg (s.storeRun a bs).mem = true :=
  Memory.writeRun_wf h ha

/-- Reset memory lists nothing, so it is canonical. -/
@[simp] theorem resetWith_wf (c : Config) : Memory.wf (resetWith c).cfg (resetWith c).mem = true := rfl

end Sys2Proof.Machine.State
end

