-- ==== Sys2Proof/Laws/Ops.lean ====
section
/-! SUPPORT. What each shared operation can do, said once: the range check, Push and Pop, fetch, retiring, the two write
orders of VF, plotting a pixel, the await step, boot, and the step by cases. -/

namespace Sys2Proof.Machine

/-! ### The range check, Push and Pop -/

theorem inRange_iff (a len : Nat) : inRange a len = true ↔ len = 0 ∨ a + len ≤ 4096 := by simp [inRange]

/-- The range check goes on, with the range in memory, or takes MemoryOutOfBounds in the state before. -/
theorem guardRange_cases (s : State) (a len : Nat) (t : State) :
    ((len = 0 ∨ a + len ≤ 4096) ∧ guardRange s a len t = .next t) ∨
      ((0 < len ∧ 4096 < a + len) ∧ guardRange s a len t = .next (s.takeFault .memoryOutOfBounds)) := by
  unfold guardRange
  by_cases h : inRange a len = true
  · exact .inl ⟨(inRange_iff a len).mp h, if_pos h⟩
  · refine .inr ⟨?_, if_neg h⟩
    rw [inRange_iff] at h
    omega

theorem push_cases (s : State) (v : Word) :
    (s.stack.length < 16 ∧ s.push v = .ok (s.setStack (v :: s.stack))) ∨
      (16 ≤ s.stack.length ∧ s.push v = .error .stackOverflow) := by
  unfold State.push
  by_cases h : s.stack.length < 16
  · exact .inl ⟨h, if_pos h⟩
  · exact .inr ⟨by omega, if_neg h⟩

theorem pop_cases (s : State) :
    (s.stack = [] ∧ s.pop = .error .stackUnderflow) ∨
      (∃ v st, s.stack = v :: st ∧ s.pop = .ok (v, s.setStack st)) := by
  unfold State.pop
  cases h : s.stack with
  | nil => exact .inl ⟨rfl, rfl⟩
  | cons v st => exact .inr ⟨v, st, rfl, rfl⟩

/-! ### Fetch, boot, retire -/

theorem fetch_of_lt {s : State} (h : s.pc.toNat < 0xFFF) :
    s.fetch = some (opcodeOf (s.byteAt s.pc.toNat) (s.byteAt (s.pc.toNat + 1))) := if_pos h

theorem fetch_eq_none_iff (s : State) : s.fetch = none ↔ 0xFFF ≤ s.pc.toNat := by simp [State.fetch]

theorem fetch_isSome {s : State} {w : Word} (h : s.fetch = some w) : s.pc.toNat < 0xFFF := by
  by_contra hc
  rw [(fetch_eq_none_iff s).mpr (by omega)] at h
  cases h

theorem nextInstr_lt {s : State} {i : Instr} (h : s.nextInstr = some i) : s.pc.toNat < 0xFFF := by
  unfold State.nextInstr at h
  split at h
  · cases h
  · exact fetch_isSome ‹_›

theorem boot_cases (s : State) (rom : List Byte) :
    (rom.length ≤ 3584 ∧ s.boot rom = some (s.zeroed.storeRun 0x200 rom)) ∨
      (3584 < rom.length ∧ s.boot rom = none) := by
  unfold State.boot State.maxRom
  by_cases h : rom.length ≤ 3584
  · exact .inl ⟨h, if_pos h⟩
  · exact .inr ⟨by omega, if_neg h⟩

@[simp] theorem retire_next (t : State) : retire (.next t) = .next t.countInstr := rfl

/-! ### The write orders of VF (R89) -/

theorem resultThenFlag_getV (s : State) (x q : Reg) (r f : Byte) :
    (resultThenFlag s x r f).getV q = if q = VF then f else if q = x then r else s.getV q := by
  rw [resultThenFlag, State.getV_setV, State.getV_setV]

theorem flagThenResult_getV (s : State) (x q : Reg) (r f : Byte) :
    (flagThenResult s x f r).getV q = if q = x then r else if q = VF then f else s.getV q := by
  rw [flagThenResult, State.getV_setV, State.getV_setV]

/-! ### Registers in a block (R107, R108) -/

theorem regsUpTo_length (s : State) (x : Reg) : (regsUpTo s x).length = x.val + 1 := by
  simp [regsUpTo]

theorem regsUpTo_getD (s : State) (x r : Reg) (h : r ≤ x) : (regsUpTo s x).getD r.val 0 = s.getV r := by
  have hr : r.val < x.val + 1 := by
    have : r.val ≤ x.val := h
    omega
  simp [regsUpTo, State.getV, hr]

theorem regsLoadedBelow_getElem (s : State) (k : Nat) (r : Reg) :
    (regsLoadedBelow s k)[r.val] = if r.val < k then s.byteAt (s.I.toNat + r.val) else s.getV r := by
  induction k with
  | zero => simp [regsLoadedBelow, State.getV]
  | succ k ih =>
    rw [regsLoadedBelow, Vector.getElem_setIfInBounds, ih]
    by_cases h : k = r.val
    · subst h; simp [indexAddr]
    · rw [if_neg h]
      by_cases h2 : r.val < k
      · rw [if_pos h2, if_pos (by omega)]
      · rw [if_neg h2, if_neg (by omega)]

theorem regsLoaded_getV (s : State) (x r : Reg) :
    (s.setAllV (regsLoaded s x)).getV r = if r ≤ x then s.byteAt (s.I.toNat + r.val) else s.getV r := by
  refine (regsLoadedBelow_getElem s (x.val + 1) r).trans ?_
  by_cases h : r ≤ x
  · rw [if_pos h, if_pos (Nat.lt_succ_of_le h)]
  · rw [if_neg h, if_neg (fun e => h (Nat.le_of_lt_succ e))]

/-! ### Plotting one pixel (R110) -/

theorem pixel_flip (fb : Frame) (x x' : Fin 64) (y y' : Fin 32) :
    Frame.pixel (Frame.flip fb x y) x' y' = (Frame.pixel fb x' y' ^^ decide (x' = x ∧ y' = y)) := by
  simp only [Frame.pixel, Frame.flip]
  by_cases hy : y' = y
  · subst hy
    by_cases hx : x' = x
    · subst hx; simp
    · have : x'.val ≠ x.val := fun e => hx (Fin.ext e)
      simp [hx, this]
  · have : y.val ≠ y'.val := fun e => hy (Fin.ext e.symm)
    simp [hy, Vector.getElem_set_ne _ _ this]

theorem plot_pixel (c : Canvas) (x x' : Fin 64) (y y' : Fin 32) (b : Bool) :
    Frame.pixel (c.plot x y b).fb x' y' = (Frame.pixel c.fb x' y' ^^ (b && decide (x' = x ∧ y' = y))) := by
  cases b
  · simp [Canvas.plot]
  · simp [Canvas.plot, pixel_flip]

theorem plot_erased (c : Canvas) (x : Fin 64) (y : Fin 32) (b : Bool) :
    (c.plot x y b).erased = (c.erased || (b && Frame.pixel c.fb x y)) := by
  cases b <;> simp [Canvas.plot]

/-! ### Keys and the await step (R75) -/

/-- The least key is one of the keys, and no smaller key is. -/
theorem leastKey_some {keys : Word} {k : Fin 16} (h : leastKey keys = some k) :
    keys.getLsbD k.val = true ∧ ∀ j : Fin 16, j < k → keys.getLsbD j.val = false := by
  unfold leastKey at h
  rw [List.find?_eq_some_iff_getElem] at h
  obtain ⟨hk, i, hi, e, hlt⟩ := h
  refine ⟨hk, fun j hj => ?_⟩
  have hik : i = k.val := by
    have := congrArg Fin.val e
    simpa using this
  have := hlt j.val (by rw [hik]; exact hj)
  simpa using this

theorem leastKey_none {keys : Word} (h : leastKey keys = none) (j : Fin 16) : keys.getLsbD j.val = false := by
  unfold leastKey at h
  rw [List.find?_eq_none] at h
  have := h j (List.mem_finRange j)
  simpa using this

theorem newKeys_getLsbD (s : State) (base : Word) (k : Fin 16) :
    (newKeys s base).getLsbD k.val = (s.KEY.getLsbD k.val && !base.getLsbD k.val) := by
  simp [newKeys]

/-- The await step remembers the snapshot, or ends the wait with a key. -/
theorem awaitStep_cases (x : Reg) (base : Word) (s : State) :
    (leastKey (newKeys s base) = none ∧ awaitStep x base s = s.setMode (.awaitingKey x s.KEY)) ∨
      (∃ k, leastKey (newKeys s base) = some k ∧
        awaitStep x base s = ((s.setV x (BitVec.ofNat 8 k.val)).setPc (s.pc + 2)).setMode .running) := by
  unfold awaitStep
  cases h : leastKey (newKeys s base) with
  | none => exact .inl ⟨rfl, rfl⟩
  | some k => exact .inr ⟨k, rfl, rfl⟩

/-! ### The step by cases (R66) -/

theorem step_of_faulted {s : State} {c : Fault} (h : s.mode = .faulted c) : step s = .fault c := by
  unfold step; rw [h]

theorem step_of_awaiting {s : State} {x : Reg} {base : Word} (h : s.mode = .awaitingKey x base) :
    step s = .next (awaitStep x base s) := by
  unfold step; rw [h]

/-- A Running step that can fetch runs the decoded instruction, or the no-op of an unknown opcode. -/
theorem step_of_running {s : State} (h : s.mode = .running) :
    step s = match s.fetch with
      | none => .next (s.takeFault .fetchOutOfBounds)
      | some _ => match s.nextInstr with
        | some i => retire (exec i s)
        | none => retire (execUnknown s) := by
  unfold step State.nextInstr
  rw [h]
  cases s.fetch with
  | none => rfl
  | some w => cases hw : decodeWord w <;> simp [hw, Except.toOption]

/-- The three things a Running step does, by what stands at pc. -/
theorem step_of_outOfBounds {s : State} (h : s.mode = .running) (hp : 0xFFF ≤ s.pc.toNat) :
    step s = .next (s.takeFault .fetchOutOfBounds) := by
  rw [step_of_running h, (fetch_eq_none_iff s).mpr hp]

theorem step_of_unknown {s : State} (h : s.mode = .running) (hp : s.pc.toNat < 0xFFF) (hn : s.nextInstr = none) :
    step s = .next s.advance.countInstr := by
  rw [step_of_running h, fetch_of_lt hp, hn]
  rfl

theorem step_of_instr {s : State} {i : Instr} (h : s.mode = .running) (hn : s.nextInstr = some i) :
    step s = retire (exec i s) := by
  rw [step_of_running h, fetch_of_lt (nextInstr_lt hn), hn]

/-- The instruction at pc, by the bytes there. -/
theorem nextInstr_of_decode {s : State} {i : Instr} (hp : s.pc.toNat < 0xFFF)
    (hd : decode [s.byteAt s.pc.toNat, s.byteAt (s.pc.toNat + 1)] = .ok (i, [])) : s.nextInstr = some i := by
  unfold State.nextInstr
  rw [fetch_of_lt hp]
  simp only [decode] at hd
  split at hd
  · rename_i e
    cases hd
    simp [e, Except.toOption]
  · cases hd

theorem nextInstr_of_decode_error {s : State} {e : DecodeError} (hp : s.pc.toNat < 0xFFF)
    (hd : decode [s.byteAt s.pc.toNat, s.byteAt (s.pc.toNat + 1)] = .error e) : s.nextInstr = none := by
  unfold State.nextInstr
  rw [fetch_of_lt hp]
  simp only [decode] at hd
  split at hd
  · cases hd
  · rename_i h
    simp [h, Except.toOption]

/-- Everything a step that answers a next state can have done. -/
theorem step_cases {s t : State} (h : step s = .next t) :
    (∃ x base, s.mode = .awaitingKey x base ∧ t = awaitStep x base s) ∨
      (s.mode = .running ∧ 0xFFF ≤ s.pc.toNat ∧ t = s.takeFault .fetchOutOfBounds) ∨
      (s.mode = .running ∧ s.pc.toNat < 0xFFF ∧ s.nextInstr = none ∧ t = s.advance.countInstr) ∨
      (∃ i, s.mode = .running ∧ s.pc.toNat < 0xFFF ∧ s.nextInstr = some i ∧ retire (exec i s) = .next t) := by
  cases hm : s.mode with
  | faulted c => rw [step_of_faulted hm] at h; cases h
  | awaitingKey x base =>
    rw [step_of_awaiting hm] at h
    cases h
    exact .inl ⟨x, base, rfl, rfl⟩
  | running =>
    rw [step_of_running hm] at h
    right
    cases hf : s.fetch with
    | none =>
      rw [hf] at h
      cases h
      exact .inl ⟨rfl, (fetch_eq_none_iff s).mp hf, rfl⟩
    | some w =>
      rw [hf] at h
      right
      cases hn : s.nextInstr with
      | none =>
        rw [hn] at h
        cases h
        exact .inl ⟨rfl, fetch_isSome hf, rfl, rfl⟩
      | some i =>
        rw [hn] at h
        exact .inr ⟨i, rfl, fetch_isSome hf, rfl, h⟩

/-- What a Running step's instruction left, before the counting. -/
theorem retire_cases {r : Result} {t : State} (h : retire r = .next t) : ∃ u, r = .next u ∧ t = u.countInstr := by
  cases r with
  | next u => cases h; exact ⟨u, rfl, rfl⟩
  | fault c => cases h
  | refused q => cases h

end Sys2Proof.Machine
end

