-- ==== Sys2Proof/Laws/Exec.lean ====
section
/-! SUPPORT. What exec answers, one lemma per instruction: the next state as updates of the state before, or, where a check can
fail, the two cases. Proofs about an instruction start from its lemma and never unfold exec. -/

namespace Sys2Proof.Machine

variable (s : State)

/-! ### Instructions with one outcome -/

theorem exec_ldVB (x : Reg) (kk : Byte) :
    exec (.ldVB x kk) s = .next (s.setV x kk).advance := rfl

theorem exec_addVB (x : Reg) (kk : Byte) :
    exec (.addVB x kk) s = .next (s.setV x (s.getV x + kk)).advance := rfl

theorem exec_ldVV (x y : Reg) :
    exec (.ldVV x y) s = .next (s.setV x (s.getV y)).advance := rfl

theorem exec_orVV (x y : Reg) :
    exec (.orVV x y) s = .next (s.setV x (s.getV x ||| s.getV y)).advance := rfl

theorem exec_andVV (x y : Reg) :
    exec (.andVV x y) s = .next (s.setV x (s.getV x &&& s.getV y)).advance := rfl

theorem exec_xorVV (x y : Reg) :
    exec (.xorVV x y) s = .next (s.setV x (s.getV x ^^^ s.getV y)).advance := rfl

theorem exec_addVV (x y : Reg) :
    exec (.addVV x y) s = .next (resultThenFlag s x (s.getV x + s.getV y) (carryFlag (s.getV x) (s.getV y))).advance := rfl

theorem exec_subVV (x y : Reg) :
    exec (.subVV x y) s = .next (flagThenResult s x (greaterFlag (s.getV x) (s.getV y)) (s.getV x - s.getV y)).advance := rfl

theorem exec_shr (x y : Reg) :
    exec (.shr x y) s = .next (flagThenResult s x (shrFlag (s.getV x)) (s.getV x >>> 1)).advance := rfl

theorem exec_subn (x y : Reg) :
    exec (.subn x y) s = .next (flagThenResult s x (greaterFlag (s.getV y) (s.getV x)) (s.getV y - s.getV x)).advance := rfl

theorem exec_shl (x y : Reg) :
    exec (.shl x y) s = .next (flagThenResult s x (shlFlag (s.getV x)) (s.getV x <<< 1)).advance := rfl

theorem exec_rnd (x : Reg) (kk : Byte) :
    exec (.rnd x kk) s = .next (s.drawn.setV x (s.randomByte &&& kk)).advance := rfl

theorem exec_sys (nnn : Addr) :
    exec (.sys nnn) s = .next s.advance := rfl

theorem exec_jp (nnn : Addr) :
    exec (.jp nnn) s = .next (s.setPc (addrOf nnn)) := rfl

theorem exec_jpV0 (nnn : Addr) :
    exec (.jpV0 nnn) s = .next (s.setPc (addrPlusV0 s nnn)) := rfl

theorem exec_seVB (x : Reg) (kk : Byte) :
    exec (.seVB x kk) s = .next (s.setPc (if s.getV x = kk then s.pc + 4 else s.pc + 2)) := by
  show execSeVB x kk s = _
  rw [execSeVB, State.skipIf_eq]
  by_cases h : s.getV x = kk <;> simp [h]

theorem exec_sneVB (x : Reg) (kk : Byte) :
    exec (.sneVB x kk) s = .next (s.setPc (if s.getV x = kk then s.pc + 2 else s.pc + 4)) := by
  show execSneVB x kk s = _
  rw [execSneVB, State.skipIf_eq]
  by_cases h : s.getV x = kk <;> simp [h]

theorem exec_seVV (x y : Reg) :
    exec (.seVV x y) s = .next (s.setPc (if s.getV x = s.getV y then s.pc + 4 else s.pc + 2)) := by
  show execSeVV x y s = _
  rw [execSeVV, State.skipIf_eq]
  by_cases h : s.getV x = s.getV y <;> simp [h]

theorem exec_sneVV (x y : Reg) :
    exec (.sneVV x y) s = .next (s.setPc (if s.getV x = s.getV y then s.pc + 2 else s.pc + 4)) := by
  show execSneVV x y s = _
  rw [execSneVV, State.skipIf_eq]
  by_cases h : s.getV x = s.getV y <;> simp [h]

theorem exec_skp (x : Reg) :
    exec (.skp x) s = .next (s.setPc (if namedKeyDown s x = true then s.pc + 4 else s.pc + 2)) := by
  show execSkp x s = _
  rw [execSkp, State.skipIf_eq]

theorem exec_sknp (x : Reg) :
    exec (.sknp x) s = .next (s.setPc (if namedKeyDown s x = true then s.pc + 2 else s.pc + 4)) := by
  show execSknp x s = _
  rw [execSknp, State.skipIf_eq]
  by_cases h : namedKeyDown s x = true <;> simp [h]

theorem exec_ldIA (nnn : Addr) :
    exec (.ldIA nnn) s = .next (s.setI (addrOf nnn)).advance := rfl

theorem exec_addIV (x : Reg) :
    exec (.addIV x) s = .next (s.setI (indexPlusV s x)).advance := rfl

theorem exec_ldFV (x : Reg) :
    exec (.ldFV x) s = .next (s.setI (glyphAddr s x)).advance := rfl

theorem exec_ldVDT (x : Reg) :
    exec (.ldVDT x) s = .next (s.setV x s.DT).advance := rfl

theorem exec_ldDTV (x : Reg) :
    exec (.ldDTV x) s = .next (s.setDT (s.getV x)).advance := rfl

theorem exec_ldSTV (x : Reg) :
    exec (.ldSTV x) s = .next (s.setST (s.getV x)).advance := rfl

theorem exec_cls :
    exec .cls s = .next (s.setFB (Vector.replicate 32 0)).advance := rfl

/-- pc stays at the Fx0A (R117). -/
theorem exec_ldVK (x : Reg) : exec (.ldVK x) s = .next (s.setMode (.awaitingKey x s.KEY)) := by
  show execLdVK x s = _
  have h : s.pcNext - 2 = s.pc := BitVec.add_sub_cancel s.pc 2
  rw [execLdVK, h]
  rfl

/-! ### Instructions with a check -/

theorem exec_call_cases (nnn : Addr) :
    (s.stack.length < 16 ∧ exec (.call nnn) s = .next ((s.setStack ((s.pc + 2) :: s.stack)).setPc (addrOf nnn))) ∨
      (16 ≤ s.stack.length ∧ exec (.call nnn) s = .next (s.takeFault .stackOverflow)) := by
  show (_ ∧ execCall nnn s = _) ∨ (_ ∧ execCall nnn s = _)
  unfold execCall
  rcases push_cases s s.pcNext with ⟨h, e⟩ | ⟨h, e⟩
  · exact .inl ⟨h, by rw [e]; rfl⟩
  · exact .inr ⟨h, by rw [e]⟩

theorem exec_ret_cases :
    (s.stack = [] ∧ exec .ret s = .next (s.takeFault .stackUnderflow)) ∨
      (∃ v st, s.stack = v :: st ∧ exec .ret s = .next ((s.setStack st).setPc v)) := by
  show (_ ∧ execRet s = _) ∨ (∃ v st, _ ∧ execRet s = _)
  unfold execRet
  rcases pop_cases s with ⟨h, e⟩ | ⟨v, st, h, e⟩
  · exact .inl ⟨h, by rw [e]⟩
  · exact .inr ⟨v, st, h, by rw [e]⟩

theorem exec_ldBV_cases (x : Reg) :
    (s.I.toNat + 3 ≤ 4096 ∧
        exec (.ldBV x) s = .next (s.storeRun s.I.toNat (decimalDigits (s.getV x))).advance) ∨
      (4096 < s.I.toNat + 3 ∧ exec (.ldBV x) s = .next (s.takeFault .memoryOutOfBounds)) := by
  rcases guardRange_cases s s.I.toNat 3 (s.storeRun s.I.toNat (decimalDigits (s.getV x))).advance with ⟨h, e⟩ | ⟨h, e⟩
  · exact .inl ⟨by omega, e⟩
  · exact .inr ⟨h.2, e⟩

theorem exec_ldMV_cases (x : Reg) :
    (s.I.toNat + (x.val + 1) ≤ 4096 ∧
        exec (.ldMV x) s = .next ((s.storeRun s.I.toNat (regsUpTo s x)).setI (indexAfterBlock s x)).advance) ∨
      (4096 < s.I.toNat + (x.val + 1) ∧ exec (.ldMV x) s = .next (s.takeFault .memoryOutOfBounds)) := by
  rcases guardRange_cases s s.I.toNat (x.val + 1)
    ((s.storeRun s.I.toNat (regsUpTo s x)).setI (indexAfterBlock s x)).advance with ⟨h, e⟩ | ⟨h, e⟩
  · exact .inl ⟨by omega, e⟩
  · exact .inr ⟨h.2, e⟩

theorem exec_ldVM_cases (x : Reg) :
    (s.I.toNat + (x.val + 1) ≤ 4096 ∧
        exec (.ldVM x) s = .next ((s.setAllV (regsLoaded s x)).setI (indexAfterBlock s x)).advance) ∨
      (4096 < s.I.toNat + (x.val + 1) ∧ exec (.ldVM x) s = .next (s.takeFault .memoryOutOfBounds)) := by
  rcases guardRange_cases s s.I.toNat (x.val + 1)
    ((s.setAllV (regsLoaded s x)).setI (indexAfterBlock s x)).advance with ⟨h, e⟩ | ⟨h, e⟩
  · exact .inl ⟨by omega, e⟩
  · exact .inr ⟨h.2, e⟩

theorem exec_drw_cases (x y : Reg) (n : Fin 16) :
    ((n.val = 0 ∨ s.I.toNat + n.val ≤ 4096) ∧
        exec (.drw x y n) s =
          .next ((s.setFB (drawnCanvas s x y n).fb).setV VF (collisionFlag (drawnCanvas s x y n).erased)).advance) ∨
      ((0 < n.val ∧ 4096 < s.I.toNat + n.val) ∧ exec (.drw x y n) s = .next (s.takeFault .memoryOutOfBounds)) :=
  guardRange_cases s s.I.toNat n.val _

end Sys2Proof.Machine
end

