-- ==== Sys2Proof/Laws/PerInstr.lean ====
section
/-! SUPPORT. Per instruction: its word has the fixed bits that its row of spec/opcode_table.json gives ("mask" and "match"). -/

namespace Sys2Proof.Laws.TableRow

/-- The row's "mask" and "match". -/
def row : Instr → Word × Word
  | .cls => (0xFFFF, 0x00E0)
  | .ret => (0xFFFF, 0x00EE)
  | .sys _ => (0xF000, 0x0000)
  | .jp _ => (0xF000, 0x1000)
  | .call _ => (0xF000, 0x2000)
  | .seVB _ _ => (0xF000, 0x3000)
  | .sneVB _ _ => (0xF000, 0x4000)
  | .seVV _ _ => (0xF00F, 0x5000)
  | .ldVB _ _ => (0xF000, 0x6000)
  | .addVB _ _ => (0xF000, 0x7000)
  | .ldVV _ _ => (0xF00F, 0x8000)
  | .orVV _ _ => (0xF00F, 0x8001)
  | .andVV _ _ => (0xF00F, 0x8002)
  | .xorVV _ _ => (0xF00F, 0x8003)
  | .addVV _ _ => (0xF00F, 0x8004)
  | .subVV _ _ => (0xF00F, 0x8005)
  | .shr _ _ => (0xF00F, 0x8006)
  | .subn _ _ => (0xF00F, 0x8007)
  | .shl _ _ => (0xF00F, 0x800E)
  | .sneVV _ _ => (0xF00F, 0x9000)
  | .ldIA _ => (0xF000, 0xA000)
  | .jpV0 _ => (0xF000, 0xB000)
  | .rnd _ _ => (0xF000, 0xC000)
  | .drw _ _ _ => (0xF000, 0xD000)
  | .skp _ => (0xF0FF, 0xE09E)
  | .sknp _ => (0xF0FF, 0xE0A1)
  | .ldVDT _ => (0xF0FF, 0xF007)
  | .ldVK _ => (0xF0FF, 0xF00A)
  | .ldDTV _ => (0xF0FF, 0xF015)
  | .ldSTV _ => (0xF0FF, 0xF018)
  | .addIV _ => (0xF0FF, 0xF01E)
  | .ldFV _ => (0xF0FF, 0xF029)
  | .ldBV _ => (0xF0FF, 0xF033)
  | .ldMV _ => (0xF0FF, 0xF055)
  | .ldVM _ => (0xF0FF, 0xF065)

/-- The word of the instruction, under its row's mask, is its row's match. -/
def Statement (i : Instr) : Prop := encodeWord i &&& (row i).1 = (row i).2

/-! Masking a word, field by field. -/

theorem and_append_append {m n : Nat} (a c : BitVec m) (b d : BitVec n) : (a ++ b) &&& (c ++ d) = (a &&& c) ++ (b &&& d) := by
  rw [BitVec.and_append]

theorem mask_nnn (d : BitVec 4) (nnn : Addr) : wordOfNNN d nnn &&& 0xF000 = (d &&& 0xF#4) ++ (nnn &&& 0#12) :=
  and_append_append d 0xF#4 nnn 0#12

theorem mask_xkk (d : BitVec 4) (x : Reg) (kk m : Byte) :
    wordOfXKK d x kk &&& (0xF#4 ++ 0#4 ++ m) = (d &&& 0xF#4) ++ ((BitVec.ofFin x : BitVec 4) &&& 0#4) ++ (kk &&& m) := by
  rw [← and_append_append, ← and_append_append]
  rfl

theorem mask_nibbles (d : BitVec 4) (x y n : Fin 16) (m : BitVec 4) :
    wordOfNibbles d x y n &&& (0xF#4 ++ 0#4 ++ 0#4 ++ m) =
      (d &&& 0xF#4) ++ ((BitVec.ofFin x : BitVec 4) &&& 0#4) ++ ((BitVec.ofFin y : BitVec 4) &&& 0#4) ++
        ((BitVec.ofFin n : BitVec 4) &&& m) := by
  rw [← and_append_append, ← and_append_append, ← and_append_append]
  rfl

theorem cls : Statement .cls := rfl

theorem ret : Statement .ret := rfl

theorem sys (nnn : Addr) : Statement (.sys nnn) := by
  refine (mask_nnn 0x0 nnn).trans ?_
  rw [BitVec.and_zero]
  rfl

theorem jp (nnn : Addr) : Statement (.jp nnn) := by
  refine (mask_nnn 0x1 nnn).trans ?_
  rw [BitVec.and_zero]
  rfl

theorem call (nnn : Addr) : Statement (.call nnn) := by
  refine (mask_nnn 0x2 nnn).trans ?_
  rw [BitVec.and_zero]
  rfl

theorem seVB (x : Reg) (kk : Byte) : Statement (.seVB x kk) := by
  refine (mask_xkk 0x3 x kk 0#8).trans ?_
  rw [BitVec.and_zero, BitVec.and_zero]
  rfl

theorem sneVB (x : Reg) (kk : Byte) : Statement (.sneVB x kk) := by
  refine (mask_xkk 0x4 x kk 0#8).trans ?_
  rw [BitVec.and_zero, BitVec.and_zero]
  rfl

theorem seVV (x : Reg) (y : Reg) : Statement (.seVV x y) := by
  refine (mask_nibbles 0x5 x y 0x0 0xF).trans ?_
  rw [BitVec.and_zero, BitVec.and_zero]
  rfl

theorem ldVB (x : Reg) (kk : Byte) : Statement (.ldVB x kk) := by
  refine (mask_xkk 0x6 x kk 0#8).trans ?_
  rw [BitVec.and_zero, BitVec.and_zero]
  rfl

theorem addVB (x : Reg) (kk : Byte) : Statement (.addVB x kk) := by
  refine (mask_xkk 0x7 x kk 0#8).trans ?_
  rw [BitVec.and_zero, BitVec.and_zero]
  rfl

theorem ldVV (x : Reg) (y : Reg) : Statement (.ldVV x y) := by
  refine (mask_nibbles 0x8 x y 0x0 0xF).trans ?_
  rw [BitVec.and_zero, BitVec.and_zero]
  rfl

theorem orVV (x : Reg) (y : Reg) : Statement (.orVV x y) := by
  refine (mask_nibbles 0x8 x y 0x1 0xF).trans ?_
  rw [BitVec.and_zero, BitVec.and_zero]
  rfl

theorem andVV (x : Reg) (y : Reg) : Statement (.andVV x y) := by
  refine (mask_nibbles 0x8 x y 0x2 0xF).trans ?_
  rw [BitVec.and_zero, BitVec.and_zero]
  rfl

theorem xorVV (x : Reg) (y : Reg) : Statement (.xorVV x y) := by
  refine (mask_nibbles 0x8 x y 0x3 0xF).trans ?_
  rw [BitVec.and_zero, BitVec.and_zero]
  rfl

theorem addVV (x : Reg) (y : Reg) : Statement (.addVV x y) := by
  refine (mask_nibbles 0x8 x y 0x4 0xF).trans ?_
  rw [BitVec.and_zero, BitVec.and_zero]
  rfl

theorem subVV (x : Reg) (y : Reg) : Statement (.subVV x y) := by
  refine (mask_nibbles 0x8 x y 0x5 0xF).trans ?_
  rw [BitVec.and_zero, BitVec.and_zero]
  rfl

theorem shr (x : Reg) (y : Reg) : Statement (.shr x y) := by
  refine (mask_nibbles 0x8 x y 0x6 0xF).trans ?_
  rw [BitVec.and_zero, BitVec.and_zero]
  rfl

theorem subn (x : Reg) (y : Reg) : Statement (.subn x y) := by
  refine (mask_nibbles 0x8 x y 0x7 0xF).trans ?_
  rw [BitVec.and_zero, BitVec.and_zero]
  rfl

theorem shl (x : Reg) (y : Reg) : Statement (.shl x y) := by
  refine (mask_nibbles 0x8 x y 0xE 0xF).trans ?_
  rw [BitVec.and_zero, BitVec.and_zero]
  rfl

theorem sneVV (x : Reg) (y : Reg) : Statement (.sneVV x y) := by
  refine (mask_nibbles 0x9 x y 0x0 0xF).trans ?_
  rw [BitVec.and_zero, BitVec.and_zero]
  rfl

theorem ldIA (nnn : Addr) : Statement (.ldIA nnn) := by
  refine (mask_nnn 0xA nnn).trans ?_
  rw [BitVec.and_zero]
  rfl

theorem jpV0 (nnn : Addr) : Statement (.jpV0 nnn) := by
  refine (mask_nnn 0xB nnn).trans ?_
  rw [BitVec.and_zero]
  rfl

theorem rnd (x : Reg) (kk : Byte) : Statement (.rnd x kk) := by
  refine (mask_xkk 0xC x kk 0#8).trans ?_
  rw [BitVec.and_zero, BitVec.and_zero]
  rfl

theorem drw (x : Reg) (y : Reg) (n : Fin 16) : Statement (.drw x y n) := by
  refine (mask_nibbles 0xD x y n 0#4).trans ?_
  rw [BitVec.and_zero, BitVec.and_zero, BitVec.and_zero]
  rfl

theorem skp (x : Reg) : Statement (.skp x) := by
  refine (mask_xkk 0xE x 0x9E 0xFF).trans ?_
  rw [BitVec.and_zero]
  rfl

theorem sknp (x : Reg) : Statement (.sknp x) := by
  refine (mask_xkk 0xE x 0xA1 0xFF).trans ?_
  rw [BitVec.and_zero]
  rfl

theorem ldVDT (x : Reg) : Statement (.ldVDT x) := by
  refine (mask_xkk 0xF x 0x07 0xFF).trans ?_
  rw [BitVec.and_zero]
  rfl

theorem ldVK (x : Reg) : Statement (.ldVK x) := by
  refine (mask_xkk 0xF x 0x0A 0xFF).trans ?_
  rw [BitVec.and_zero]
  rfl

theorem ldDTV (x : Reg) : Statement (.ldDTV x) := by
  refine (mask_xkk 0xF x 0x15 0xFF).trans ?_
  rw [BitVec.and_zero]
  rfl

theorem ldSTV (x : Reg) : Statement (.ldSTV x) := by
  refine (mask_xkk 0xF x 0x18 0xFF).trans ?_
  rw [BitVec.and_zero]
  rfl

theorem addIV (x : Reg) : Statement (.addIV x) := by
  refine (mask_xkk 0xF x 0x1E 0xFF).trans ?_
  rw [BitVec.and_zero]
  rfl

theorem ldFV (x : Reg) : Statement (.ldFV x) := by
  refine (mask_xkk 0xF x 0x29 0xFF).trans ?_
  rw [BitVec.and_zero]
  rfl

theorem ldBV (x : Reg) : Statement (.ldBV x) := by
  refine (mask_xkk 0xF x 0x33 0xFF).trans ?_
  rw [BitVec.and_zero]
  rfl

theorem ldMV (x : Reg) : Statement (.ldMV x) := by
  refine (mask_xkk 0xF x 0x55 0xFF).trans ?_
  rw [BitVec.and_zero]
  rfl

theorem ldVM (x : Reg) : Statement (.ldVM x) := by
  refine (mask_xkk 0xF x 0x65 0xFF).trans ?_
  rw [BitVec.and_zero]
  rfl

end Sys2Proof.Laws.TableRow
end

