-- ==== Sys2Proof/Machine/Run.lean ====
section
/-! DEFINITION. The end of a run (R146, D27, log 30). The core has no halt instruction and never stops by itself: an end is
something the host reads off the state, and no operation of the core depends on it. -/

namespace Sys2Proof.Machine

/-- The three ends of a run that R146 gives a model. -/
inductive RunEnd where
  /-- (i) mode = Faulted(cause). -/
  | faulted (cause : Fault)
  /-- (ii) mode = Running at a jump to its own address. -/
  | selfJump
  /-- (iii) The host made all the calls that it chose to make. -/
  | hostChoice
  deriving DecidableEq, Repr

/-- "mem[pc] ++ mem[pc+1] = 0x1nnn and nnn = pc" (R146). -/
def State.atSelfJump (s : State) : Bool :=
  match s.fetch with
  | none => false
  | some w => fieldD1 w == 0x1 && addrOf (fieldNNN w) == s.pc

/-- The end that the state itself shows, (i) or (ii) of R146. A core that awaits a key has not ended: the host may present
one (R76). -/
def State.runEnd (s : State) : Option RunEnd :=
  match s.mode with
  | .faulted c => some (.faulted c)
  | .running => if s.atSelfJump then some .selfJump else none
  | .awaitingKey _ _ => none

/-- The state after one call of the host. -/
def hostCall (op : HostOp) (s : State) : State :=
  match hostOp op s with
  | .next (_, t) => t
  | .fault _ => s
  | .refused _ => s

/-- The run under the calls that the host chose, in its order (R127, R129): it makes them until the state shows an end, or
until none is left, which is the host's own end. -/
def runCalls : List HostOp → State → RunEnd × State
  | [], s => (s.runEnd.getD .hostChoice, s)
  | op :: ops, s =>
    match s.runEnd with
    | some e => (e, s)
    | none => runCalls ops (hostCall op s)

/-- (iii) of R146 for steps alone: the host passes one random byte to each step, and their number is its step count. -/
def runSteps (rs : List Byte) (s : State) : RunEnd × State := runCalls (rs.map .step) s

end Sys2Proof.Machine
end

