-- ==== Sys2Proof/Laws/Run.lean ====
section
/-! SUPPORT. What the end of a run is (R146): when a state shows one, that a Faulted core and a self-jump stay where they are,
and how a run goes on or ends. -/

namespace Sys2Proof.Machine

theorem runEnd_eq_faulted_iff (s : State) (c : Fault) : s.runEnd = some (.faulted c) ↔ s.mode = .faulted c := by
  unfold State.runEnd
  split
  · rename_i h; simp [h]
  · rename_i h; split <;> simp [h]
  · rename_i h; simp [h]

theorem runEnd_eq_selfJump_iff (s : State) :
    s.runEnd = some .selfJump ↔ s.mode = .running ∧ s.atSelfJump = true := by
  unfold State.runEnd
  split
  · rename_i h; simp [h]
  · rename_i h; split <;> simp_all
  · rename_i h; simp [h]

/-- At a self-jump the instruction at pc is the JP to pc. -/
theorem nextInstr_of_atSelfJump {s : State} (h : s.atSelfJump = true) :
    ∃ nnn, s.nextInstr = some (.jp nnn) ∧ addrOf nnn = s.pc := by
  unfold State.atSelfJump at h
  split at h
  · cases h
  · rename_i w hw
    rw [Bool.and_eq_true, beq_iff_eq, beq_iff_eq] at h
    refine ⟨fieldNNN w, ?_, h.2⟩
    unfold State.nextInstr
    simp [hw, decodeWord, h.1, Except.toOption]

/-- "a state from which every further step leaves all state unchanged except debug_count" (R146). -/
theorem step_of_selfJump {s : State} (h : s.runEnd = some .selfJump) : step s = .next s.countInstr := by
  obtain ⟨hm, hj⟩ := (runEnd_eq_selfJump_iff s).mp h
  obtain ⟨nnn, hn, hp⟩ := nextInstr_of_atSelfJump hj
  rw [step_of_instr hm hn, exec_jp, hp]
  rfl

/-- The counting of an instruction shows no end and hides none: debug_count is no part of what R146 looks at. -/
@[simp] theorem runEnd_countInstr (s : State) : s.countInstr.runEnd = s.runEnd := by
  unfold State.countInstr
  split
  · rfl
  all_goals split <;> rfl

/-- So a self-jump is still one after every step. -/
theorem runEnd_after_selfJump {s t : State} (h : s.runEnd = some .selfJump) (ht : step s = .next t) :
    t.runEnd = some .selfJump := by
  rw [step_of_selfJump h] at ht
  cases ht
  rw [runEnd_countInstr, h]

/-- A run makes no call once the state shows an end. -/
theorem runCalls_of_ended {s : State} {e : RunEnd} (ops : List HostOp) (h : s.runEnd = some e) :
    runCalls ops s = (e, s) := by
  cases ops <;> simp [runCalls, h]

/-- Until then it makes the host's next call. -/
theorem runCalls_of_going {s : State} (op : HostOp) (ops : List HostOp) (h : s.runEnd = none) :
    runCalls (op :: ops) s = runCalls ops (hostCall op s) := by
  simp [runCalls, h]

/-- The end that a run answers is the one its last state shows, and the host's choice exactly if that state shows none. -/
theorem runCalls_end (ops : List HostOp) (s : State) :
    (runCalls ops s).1 = (runCalls ops s).2.runEnd.getD .hostChoice := by
  induction ops generalizing s with
  | nil => rfl
  | cons op ops ih =>
    cases h : s.runEnd with
    | some e => rw [runCalls_of_ended _ h]; simp [h]
    | none => rw [runCalls_of_going _ _ h]; exact ih _

/-- Every invariant of the host's operations is one of runs. -/
theorem runCalls_keeps {P : State → Prop} (hP : ∀ op s, P s → P (hostCall op s)) (ops : List HostOp) (s : State)
    (h : P s) : P (runCalls ops s).2 := by
  induction ops generalizing s with
  | nil => exact h
  | cons op ops ih =>
    cases hr : s.runEnd with
    | some e => rw [runCalls_of_ended _ hr]; exact h
    | none => rw [runCalls_of_going _ _ hr]; exact ih _ (hP op s h)

end Sys2Proof.Machine
end

