-- ==== Sys2Proof/Tests/Slice0.lean ====
section
/-! SUPPORT. The model's own tests: the WellFormed smoke test, the decoding of every constructor from a word written out from
R57 and R60, small steps whose expected values are the vectors of spec/95_test_vectors.md (named E<n>, V-… in the comments),
and for every obligation with hypotheses a witness that meets them. -/

namespace Sys2Proof.Tests

open Sys2Proof Sys2Proof.Machine

/-! ## Helpers -/

/-- The reset state with the word w at 0x200. -/
def start (w : Nat) : State := State.reset.withFetchWord 16 w

/-- The reset state with pc = a and the word w there. -/
def startAt (a : Word) (w : Nat) : State := (State.reset.setPc a).withFetchWord 16 w

/-- What a step leaves, seen through f. -/
def see {α : Type} (s : State) (f : State → α) : Option α :=
  match step s with
  | .next t => some (f t)
  | .fault _ => none
  | .refused _ => none

/-- What an operation of the host answers and leaves, seen through f. -/
def ask {α : Type} (op : HostOp) (s : State) (f : Reply → State → α) : Option α :=
  match hostOp op s with
  | .next (r, t) => some (f r t)
  | .fault _ => none
  | .refused _ => none

/-- n entries on the stack, each 0x202. -/
def stacked (n : Nat) (s : State) : State := s.setStack (List.replicate n 0x202)

/-! ## WellFormed smoke: the one check refuses the words of CLS and RET under SYS (R61) -/

theorem test_wf_refuses_sys_of_cls : (Instr.sys 0x0E0).wf = false := by decide
theorem test_wf_refuses_sys_of_ret : (Instr.sys 0x0EE).wf = false := by decide
theorem test_wf_accepts_sys_zero : (Instr.sys 0x000).wf = true := by decide

/-! ## Decoding: words written out from R57 and R60 -/

theorem test_decode_cls : decode [0b00000000, 0b11100000] = .ok (.cls, []) := by rfl
theorem test_decode_ret : decode [0b00000000, 0b11101110] = .ok (.ret, []) := by rfl
theorem test_decode_sys : decode [0x01, 0x23] = .ok (.sys 0x123, []) := by rfl
theorem test_decode_jp : decode [0x1A, 0xBC] = .ok (.jp 0xABC, []) := by rfl
theorem test_decode_call : decode [0x23, 0x04] = .ok (.call 0x304, []) := by rfl
theorem test_decode_seVB : decode [0x35, 0x0A] = .ok (.seVB 5 0x0A, []) := by rfl
theorem test_decode_sneVB : decode [0x42, 0x11] = .ok (.sneVB 2 0x11, []) := by rfl
theorem test_decode_seVV : decode [0b01010001, 0b00100000] = .ok (.seVV 1 2, []) := by rfl
theorem test_decode_ldVB : decode [0x6A, 0x42] = .ok (.ldVB 0xA 0x42, []) := by rfl
theorem test_decode_addVB : decode [0x7F, 0x01] = .ok (.addVB 0xF 0x01, []) := by rfl
theorem test_decode_ldVV : decode [0x81, 0x20] = .ok (.ldVV 1 2, []) := by rfl
theorem test_decode_orVV : decode [0x8F, 0x11] = .ok (.orVV 0xF 1, []) := by rfl
theorem test_decode_andVV : decode [0x80, 0x12] = .ok (.andVV 0 1, []) := by rfl
theorem test_decode_xorVV : decode [0x82, 0x13] = .ok (.xorVV 2 1, []) := by rfl
theorem test_decode_addVV : decode [0b10000011, 0b01000100] = .ok (.addVV 3 4, []) := by rfl
theorem test_decode_subVV : decode [0x80, 0x15] = .ok (.subVV 0 1, []) := by rfl
theorem test_decode_shr : decode [0x83, 0x76] = .ok (.shr 3 7, []) := by rfl
theorem test_decode_subn : decode [0x80, 0x17] = .ok (.subn 0 1, []) := by rfl
theorem test_decode_shl : decode [0x83, 0x0E] = .ok (.shl 3 0, []) := by rfl
theorem test_decode_sneVV : decode [0x91, 0x20] = .ok (.sneVV 1 2, []) := by rfl
theorem test_decode_ldIA : decode [0b10100011, 0b00000000] = .ok (.ldIA 0x300, []) := by rfl
theorem test_decode_jpV0 : decode [0xB3, 0x07] = .ok (.jpV0 0x307, []) := by rfl
theorem test_decode_rnd : decode [0xC3, 0x0F] = .ok (.rnd 3 0x0F, []) := by rfl
theorem test_decode_drw : decode [0b11010111, 0b10100011] = .ok (.drw 7 0xA 3, []) := by rfl
theorem test_decode_skp : decode [0xE4, 0x9E] = .ok (.skp 4, []) := by rfl
theorem test_decode_sknp : decode [0b11100100, 0b10100001] = .ok (.sknp 4, []) := by rfl
theorem test_decode_ldVDT : decode [0b11110101, 0b00000111] = .ok (.ldVDT 5, []) := by rfl
theorem test_decode_ldVK : decode [0xF3, 0x0A] = .ok (.ldVK 3, []) := by rfl
theorem test_decode_ldDTV : decode [0xF1, 0x15] = .ok (.ldDTV 1, []) := by rfl
theorem test_decode_ldSTV : decode [0xF2, 0x18] = .ok (.ldSTV 2, []) := by rfl
theorem test_decode_addIV : decode [0xF2, 0x1E] = .ok (.addIV 2, []) := by rfl
theorem test_decode_ldFV : decode [0xF5, 0x29] = .ok (.ldFV 5, []) := by rfl
theorem test_decode_ldBV : decode [0xF7, 0x33] = .ok (.ldBV 7, []) := by rfl
theorem test_decode_ldMV : decode [0xF2, 0x55] = .ok (.ldMV 2, []) := by rfl
theorem test_decode_ldVM : decode [0xFF, 0x65] = .ok (.ldVM 0xF, []) := by rfl
/-- V-D1, V-D3, V-D5, V-D7: unknown words of groups 5, 8, E and F. -/
theorem test_decode_unknown :
    [0x5121, 0x8128, 0xE000, 0xF001].map (decodeTableWord 16) = [none, none, none, none] := by rfl
/-- V-D12: 00E1 is SYS, and a word of more than 16 bits is cut to its row's. -/
theorem test_decodeTableWord : decodeTableWord 16 0x100E1 = some (.sys 0x0E1) := by rfl

/-! ## Step, fetch and faults -/

/-- V-S3: an odd pc fetches the two bytes there. -/
theorem test_odd_pc : see (startAt 0x201 0x6007) (fun t => (t.getV 0, t.pc)) = some (7, 0x203) := by decide
/-- V-S1: pc = 0xFFE still fetches; V-S2: pc = 0xFFF faults and stays. -/
theorem test_fetch_last_word : see (startAt 0xFFE 0x0000) (fun t => (t.pc, t.mode)) = some (0x1000, .running) := by decide
theorem test_fetch_out_of_bounds :
    see (State.reset.setPc 0xFFF) (fun t => (t.pc, t.mode)) = some (0xFFF, .faulted .fetchOutOfBounds) := by decide
/-- V-D1: 5121 is a no-op even if V1 = V2. -/
theorem test_unknown_opcode :
    see (start 0x5121) (fun t => (t.pc, t.mode, t.debugCount)) = some (0x202, .running, 0) := by decide
/-- V-S7 and V-S8: the counter counts an executed instruction and no fault. -/
theorem test_debug_counts :
    see ((start 0x6005).enableDebug 10) (fun t => (t.getV 0, t.debugCount)) = some (5, 11) := by decide
theorem test_debug_skips_fault :
    see ((start 0x00EE).enableDebug 10) (fun t => (t.mode, t.debugCount)) = some (.faulted .stackUnderflow, 10) := by
  decide
/-- V-S5: the Faulted core answers its cause. -/
theorem test_faulted_step : step ((start 0x6005).takeFault .stackOverflow) = .fault .stackOverflow := by rfl

/-! ## Control flow -/

theorem test_sys : see (start 0x0123) (fun t => t.pc) = some 0x202 := by decide                            -- V-D9
theorem test_jp : see (start 0x1ABC) (fun t => t.pc) = some 0x0ABC := by decide                            -- V-C1
theorem test_call : see (stacked 1 (startAt 0x300 0x2400)) (fun t => (t.pc, t.stack)) =
    some (0x400, [0x302, 0x202]) := by decide                                                              -- V-C19
theorem test_call_full : see (stacked 16 (start 0x2300)) (fun t => (t.mode, t.pc, t.stack.length)) =
    some (.faulted .stackOverflow, 0x200, 16) := by decide                                                 -- V-C4
theorem test_ret : see ((start 0x00EE).setStack [0x40A, 0x202]) (fun t => (t.pc, t.stack)) =
    some (0x40A, [0x202]) := by decide                                                                     -- V-C5
theorem test_ret_empty : see (start 0x00EE) (fun t => (t.mode, t.pc)) =
    some (.faulted .stackUnderflow, 0x200) := by decide                                                    -- E11
theorem test_seVB_skips : see ((start 0x3005).setV 0 5) (fun t => t.pc) = some 0x204 := by decide          -- V-C6
theorem test_seVB_past_end : see (startAt 0xFFC 0x3000) (fun t => t.pc) = some 0x1000 := by decide         -- V-C18
theorem test_sneVB_skips : see ((startAt 0x300 0x4211).setV 2 0x10) (fun t => t.pc) = some 0x304 := by decide   -- V-C8
theorem test_sneVB_stays : see ((startAt 0x300 0x4210).setV 2 0x10) (fun t => t.pc) = some 0x302 := by decide   -- V-C9
theorem test_seVV_skips :
    see (((startAt 0x210 0x5120).setV 1 0x7F).setV 2 0x7F) (fun t => t.pc) = some 0x214 := by decide       -- V-C10
theorem test_seVV_stays :
    see (((startAt 0x210 0x5120).setV 1 1).setV 2 2) (fun t => t.pc) = some 0x212 := by decide             -- V-C11
theorem test_sneVV_skips :
    see (((startAt 0x210 0x9120).setV 1 1).setV 2 2) (fun t => t.pc) = some 0x214 := by decide             -- V-C13
theorem test_sneVV_same : see (start 0x9330) (fun t => t.pc) = some 0x202 := by decide                     -- V-C14
theorem test_jpV0 : see ((start 0xB300).setV 0 0x10) (fun t => t.pc) = some 0x310 := by decide             -- V-C15
theorem test_jpV0_wide : see ((start 0xBFFF).setV 0 0xFF) (fun t => t.pc) = some 0x10FE := by decide       -- V-C16

/-! ## Arithmetic and logic -/

theorem test_ldVB : see (start 0x6A42) (fun t => t.getV 0xA) = some 0x42 := by decide                      -- V-A1
theorem test_addVB_wraps :
    see ((start 0x7001).setV 0 0xFF) (fun t => (t.getV 0, t.getV 15)) = some (0, 0) := by decide           -- V-A2
theorem test_addVB_to_VF : see ((start 0x7F01).setV 15 1) (fun t => t.getV 15) = some 2 := by decide       -- V-A3
theorem test_ldVV : see ((start 0x8120).setV 2 0x33) (fun t => (t.getV 1, t.getV 2)) = some (0x33, 0x33) := by decide  -- V-A4
theorem test_orVV : see ((((start 0x8011).setV 0 0xF0).setV 1 0x0F).setV 15 5) (fun t => (t.getV 0, t.getV 15)) =
    some (0xFF, 5) := by decide                                                                            -- V-A5
theorem test_andVV :
    see (((start 0x8012).setV 0 0xF0).setV 1 0x3C) (fun t => t.getV 0) = some 0x30 := by decide            -- V-A6
theorem test_xorVV :
    see (((start 0x8013).setV 0 0xFF).setV 1 0x0F) (fun t => t.getV 0) = some 0xF0 := by decide            -- V-A7
theorem test_addVV : see (((start 0x8014).setV 0 0xFA).setV 1 0x0A) (fun t => (t.getV 0, t.getV 15)) =
    some (4, 1) := by decide                                                                               -- E8
theorem test_addVV_to_VF :
    see (((start 0x8F14).setV 15 0xC8).setV 1 0x64) (fun t => t.getV 15) = some 1 := by decide             -- V-A12
theorem test_subVV_equal : see (((start 0x8015).setV 0 7).setV 1 7) (fun t => (t.getV 0, t.getV 15)) =
    some (0, 0) := by decide                                                                               -- V-A16
theorem test_subVV_to_VF :
    see (((start 0x8F15).setV 15 3).setV 1 0x0A) (fun t => t.getV 15) = some 0xF9 := by decide             -- V-A19
theorem test_shr : see (((start 0x8376).setV 3 5).setV 7 0xFF) (fun t => (t.getV 3, t.getV 15, t.getV 7)) =
    some (2, 1, 0xFF) := by decide                                                                         -- V-A20
theorem test_shr_of_VF : see ((start 0x8F06).setV 15 5) (fun t => t.getV 15) = some 2 := by decide         -- V-A22
theorem test_subn : see (((start 0x8017).setV 0 3).setV 1 0x0A) (fun t => (t.getV 0, t.getV 15)) =
    some (7, 1) := by decide                                                                               -- V-A23
theorem test_subn_borrows : see (((start 0x8017).setV 0 0x0A).setV 1 3) (fun t => (t.getV 0, t.getV 15)) =
    some (0xF9, 0) := by decide                                                                            -- V-A24
theorem test_shl : see ((start 0x830E).setV 3 0x81) (fun t => (t.getV 3, t.getV 15)) = some (2, 1) := by decide  -- V-A27
theorem test_shl_of_VF : see ((start 0x8F0E).setV 15 0x81) (fun t => t.getV 15) = some 2 := by decide      -- V-A30
theorem test_rnd : ask (.step 0xAB) (start 0xC30F) (fun r t => (r, t.getV 3, t.randIn)) =
    some (.ok, 0x0B, none) := by decide                                                                    -- V-A31

/-! ## Memory transfer -/

theorem test_ldIA : see (start 0xA123) (fun t => t.I) = some 0x123 := by decide                            -- V-M1
theorem test_addIV : see (((start 0xF01E).setI 0xFFFF).setV 0 1) (fun t => t.I) = some 0 := by decide      -- V-M3
theorem test_addIV_past_12_bits :
    see (((start 0xF01E).setI 0x0FFF).setV 0 1) (fun t => (t.I, t.getV 15)) = some (0x1000, 0) := by decide     -- V-M4
theorem test_ldFV : see ((start 0xF029).setV 0 0x1A) (fun t => t.I) = some 0x082 := by decide              -- V-M7
theorem test_ldFV_last : see ((start 0xF529).setV 5 0xFF) (fun t => t.I) = some 0x09B := by decide         -- V-M8
theorem test_ldBV : see (((start 0xF033).setI 0x300).setV 0 123)
    (fun t => (t.byteAt 0x300, t.byteAt 0x301, t.byteAt 0x302, t.I)) = some (1, 2, 3, 0x300) := by decide  -- V-M11
theorem test_ldBV_past_end : see ((start 0xF033).setI 0xFFE) (fun t => (t.mode, t.byteAt 0xFFE)) =
    some (.faulted .memoryOutOfBounds, 0) := by decide                                                     -- V-M13
theorem test_ldMV : see (((((start 0xF255).setI 0x300).setV 0 1).setV 1 2).setV 2 3)
    (fun t => (t.byteAt 0x300, t.byteAt 0x301, t.byteAt 0x302, t.byteAt 0x303, t.I)) =
      some (1, 2, 3, 0, 0x303) := by decide                                                                -- V-M14
theorem test_ldMV_past_end : see (((start 0xFF55).setI 0xFF1).setV 0 9) (fun t => (t.mode, t.byteAt 0xFF1, t.I)) =
    some (.faulted .memoryOutOfBounds, 0, 0xFF1) := by decide                                              -- V-M17
theorem test_ldVM : see (((start 0xF265).storeRun 0x300 [2, 5, 5, 9]).setI 0x300)
    (fun t => (t.getV 0, t.getV 1, t.getV 2, t.getV 3, t.I)) = some (2, 5, 5, 0, 0x303) := by decide       -- V-M20
theorem test_ldVM_past_end : see ((start 0xF065).setI 0x1000) (fun t => (t.mode, t.I)) =
    some (.faulted .memoryOutOfBounds, 0x1000) := by decide                                                -- V-M22
/-- V-M9, V-M10: the first and the last glyph of the default font. -/
theorem test_font : ((List.range 5).map fun k => State.reset.byteAt (0x50 + k)) = [0xF0, 0x90, 0x90, 0x90, 0xF0] ∧
    ((List.range 5).map fun k => State.reset.byteAt (0x9B + k)) = [0xF0, 0x80, 0xF0, 0x80, 0x80] ∧
    State.reset.byteAt 0xA0 = 0 ∧ State.reset.byteAt 0x4F = 0 := by decide

/-! ## Display -/

/-- A sprite byte of ones at 0x300 and the draw of one row of it at (V0, V1), E5 and E6. -/
def drawing (v0 v1 : Byte) : State :=
  ((((start 0xD011).storeRun 0x300 [0xFF]).setI 0x300).setV 0 v0).setV 1 v1

/-- V-G1. -/
theorem test_cls : see ((start 0x00E0).setFB (Vector.replicate 32 0xFF)) (fun t => (t.FB, t.dirty)) =
    some (Vector.replicate 32 0, true) := by decide
/-- E6: pixels 60 to 63 and 0 to 3 of row 0. -/
theorem test_drw_wraps : see (drawing 60 0) (fun t => (t.FB[0], t.FB[1], t.getV 15, t.dirty)) =
    some (0xF00000000000000F, 0, 0, true) := by decide
/-- V-G4 and V-G5 together: a 0 bit leaves pixel 3, the 1 bit at column 7 erases pixel 7. -/
theorem test_drw_erases :
    see { (drawing 0 0).storeRun 0x300 [0x81] with FB := Vector.ofFn fun y => if y.val = 0 then 0x88 else 0 }
      (fun t => (t.FB[0], t.getV 15)) = some (0x09, 1) := by decide

/-! ## Timers and keyboard -/

theorem test_ldVDT : see ((start 0xF507).setDT 0x3C) (fun t => (t.getV 5, t.DT)) = some (0x3C, 0x3C) := by decide  -- V-T1
theorem test_ldDTV : see ((start 0xF115).setV 1 0x3C) (fun t => (t.DT, t.ST)) = some (0x3C, 0) := by decide    -- V-T2
theorem test_ldSTV : see ((start 0xF218).setV 2 5) (fun t => (t.ST, t.DT)) = some (5, 0) := by decide      -- V-T3
theorem test_skp_low_nibble :
    see (((start 0xE09E).setKeyState 0x20).setV 0 0x15) (fun t => t.pc) = some 0x204 := by decide          -- V-T8
theorem test_skp_up : see ((start 0xE09E).setV 0 5) (fun t => t.pc) = some 0x202 := by decide              -- V-T9
theorem test_sknp_up : see ((start 0xE0A1).setV 0 3) (fun t => t.pc) = some 0x204 := by decide             -- V-T10
theorem test_sknp_down :
    see (((start 0xE0A1).setKeyState 0x08).setV 0 3) (fun t => t.pc) = some 0x202 := by decide             -- V-T11
/-- V-K1, step 1, with key 3 held as in V-K2. -/
theorem test_ldVK : see ((start 0xF30A).setKeyState 0x08) (fun t => (t.mode, t.pc)) =
    some (.awaitingKey 3 0x08, 0x200) := by decide
/-- V-K3, the last step: the least new key of 3 and B. -/
theorem test_await_least : see (((start 0xF00A).setKeyState 0x808).setMode (.awaitingKey 0 0))
    (fun t => (t.getV 0, t.pc, t.mode)) = some (3, 0x202, .running) := by decide
/-- V-T6: the timers run in mode Faulted; E12: they stop at 0. -/
theorem test_advance_timers :
    ask .advanceTimers ((State.reset.setDT 5).takeFault .stackOverflow) (fun _ t => (t.DT, t.ST)) = some (4, 0) := by decide
/-- V-G12. -/
theorem test_read_framebuffer :
    ask .readFramebuffer (State.reset.setFB (Vector.replicate 32 1)) (fun r t => (r, t.dirty)) =
      some (.framebuffer (Vector.replicate 32 1) true, false) := by decide
/-- V-S6: initialize leaves mode Faulted, and loads at 0x200. -/
theorem test_initialize : ask (.init [0x12, 0x34]) ((start 0).takeFault .stackOverflow)
    (fun r t => (r, t.mode, t.pc, t.fetch)) = some (.ok, .running, 0x200, some 0x1234) := by decide

/-! ## The end of a run (R146): V-S9, E11, and a run that the host ends -/

theorem test_run_self_jump : (start 0x1200).runEnd = some .selfJump ∧
    see (start 0x1200) id = some (start 0x1200) := by decide
theorem test_run_no_self_jump : (start 0x1202).runEnd = none ∧ (start 0x2200).runEnd = none := by decide
theorem test_run_ends_at_fault : (runSteps [0, 0, 0] (start 0x00EE)).1 = .faulted .stackUnderflow := by decide
theorem test_run_host_choice : (runSteps [0] (start 0x6005)).1 = .hostChoice ∧
    (runSteps [0] (start 0x6005)).2.getV 0 = 5 := by decide

/-! ## Witnesses: for each obligation with hypotheses, values that meet them; the name is the obligation's. Where hypotheses or
clauses have a range, the witness stands at its boundary. -/

theorem witness_DecodeEncodeRoundTrip : ∃ i : Instr, i.wf = true ∧ i = .sys 0x0EF := ⟨_, by decide, rfl⟩

theorem witness_DecodedWordReencodes : ∃ (w : Word) (i : Instr), decodeWord w = .ok i := ⟨0x8376, .shr 3 7, by rfl⟩

theorem witness_FetchReadsTwoBytesBigEndian : ∃ s : State, s.pc.toNat + 1 < 4096 ∧ s.pc = 0xFFE :=
  ⟨State.reset.setPc 0xFFE, by decide, rfl⟩

/-- The three clauses: debug on, debug off, and a fault taken. -/
theorem witness_StepRunsDecodedInstruction_counted : ∃ (s t : State) (i : Instr), s.mode = .running ∧ s.pc.toNat + 1 < 4096 ∧
    decode [s.byteAt s.pc.toNat, s.byteAt (s.pc.toNat + 1)] = .ok (i, []) ∧ exec i s = .next t ∧ t.debugEnabled = true ∧
    (∀ c, t.mode ≠ .faulted c) :=
  ⟨(start 0x6005).enableDebug 10, _, .ldVB 0 5, rfl, by decide, rfl, rfl, rfl, fun c h => by cases h⟩

theorem witness_StepRunsDecodedInstruction_plain : ∃ (s t : State) (i : Instr), s.mode = .running ∧ s.pc.toNat + 1 < 4096 ∧
    decode [s.byteAt s.pc.toNat, s.byteAt (s.pc.toNat + 1)] = .ok (i, []) ∧ exec i s = .next t ∧ t.debugEnabled = false :=
  ⟨startAt 0xFFE 0x6005, _, .ldVB 0 5, rfl, by decide, rfl, rfl, rfl⟩

theorem witness_StepRunsDecodedInstruction_fault : ∃ (s t : State) (i : Instr), s.mode = .running ∧ s.pc.toNat + 1 < 4096 ∧
    decode [s.byteAt s.pc.toNat, s.byteAt (s.pc.toNat + 1)] = .ok (i, []) ∧ exec i s = .next t ∧
    t.mode = .faulted .stackUnderflow :=
  ⟨start 0x00EE, _, .ret, rfl, by decide, rfl, rfl, rfl⟩

theorem witness_PlacedInstructionIsNext :
    ∃ (s : State) (i : Instr), Memory.wf s.cfg s.mem = true ∧ i.wf = true ∧ s.pc = 0xFFF ∧ i = .drw 1 2 15 :=
  ⟨(start 0x6005).setPc 0xFFF, _, by decide, by decide, rfl, rfl⟩

theorem witness_UnknownOpcodeIsNoOp : ∃ (s : State) (w : Word), s.mode = .running ∧ s.pc.toNat + 1 < 4096 ∧
    decode [s.byteAt s.pc.toNat, s.byteAt (s.pc.toNat + 1)] = .error (.unknownOpcode w) ∧ s.debugEnabled = true :=
  ⟨(start 0x5121).enableDebug 0, 0x5121, rfl, by decide, rfl, rfl⟩

theorem witness_FetchOutOfBoundsFaults :
    ∃ s : State, s.mode = .running ∧ 4096 ≤ s.pc.toNat + 1 ∧ s.randIn = none ∧ s.pc = 0xFFF :=
  ⟨State.reset.setPc 0xFFF, rfl, by decide, rfl, rfl⟩

theorem witness_FaultedCoreRepeatsCause : ∀ c : Fault, ∃ s : State, s.mode = .faulted c :=
  fun c => ⟨State.reset.takeFault c, rfl⟩

/-- One step into each of the four causes, from a state at the boundary of its check. -/
theorem witness_FaultsArePrecise :
    (∃ t, step (stacked 16 (start 0x2300)) = .next t ∧ t.mode = .faulted .stackOverflow) ∧
    (∃ t, step (start 0x00EE) = .next t ∧ t.mode = .faulted .stackUnderflow) ∧
    (∃ t, step (State.reset.setPc 0xFFF) = .next t ∧ t.mode = .faulted .fetchOutOfBounds) ∧
    (∃ t, step ((start 0xF033).setI 0xFFE) = .next t ∧ t.mode = .faulted .memoryOutOfBounds) :=
  ⟨⟨_, rfl, rfl⟩, ⟨_, rfl, rfl⟩, ⟨_, rfl, rfl⟩, ⟨_, rfl, rfl⟩⟩

/-- Each cause is justified in some state that meets the premises. -/
theorem witness_FaultTakenExactlyWhenJustified :
    ∀ c : Fault, ∃ s : State, s.mode = .running ∧ s.stack.length ≤ 16 ∧ FaultJustified s c
  | .stackOverflow => ⟨stacked 16 (start 0x2300), rfl, by decide, by decide, 0x300, rfl⟩
  | .stackUnderflow => ⟨start 0x00EE, rfl, by decide, rfl, rfl⟩
  | .fetchOutOfBounds => ⟨State.reset.setPc 0xFFF, rfl, by decide, show 0xFFF ≤ _ by decide⟩
  | .memoryOutOfBounds =>
    ⟨(start 0xFF55).setI 0xFF1, rfl, by decide, .ldMV 0xF, rfl, by decide, by decide⟩

theorem witness_EveryInstructionAnswersNextState : ∃ s : State, ∀ c, s.mode ≠ .faulted c :=
  ⟨State.reset, fun c h => by cases h⟩

theorem witness_KeyWaitEndsWithLeastNewKey_waits : ∃ (s : State) (x : Reg) (base : Word), s.mode = .awaitingKey x base ∧
    ∀ k : Fin 16, s.KEY.getLsbD k = true → base.getLsbD k = true :=
  ⟨((start 0xF00A).setKeyState 8).setMode (.awaitingKey 0 8), 0, 8, rfl, by decide⟩

/-- Keys F and C go down while key 3 is held: the least new key is C. -/
theorem witness_KeyWaitEndsWithLeastNewKey_ends : ∃ (s : State) (x : Reg) (base : Word) (k : Fin 16),
    s.mode = .awaitingKey x base ∧ s.KEY.getLsbD k = true ∧ base.getLsbD k = false ∧
      (∀ j : Fin 16, j < k → s.KEY.getLsbD j = true → base.getLsbD j = true) ∧ k = 0xC :=
  ⟨((start 0xF00A).setKeyState 0x9008).setMode (.awaitingKey 0 8), 0, 8, 0xC, rfl, by decide, by decide, by decide, rfl⟩

theorem witness_FaultReportedByReplyAndMode : ∃ (r : Byte) (s t : State) (rep : Reply) (w : Word),
    hostOp (.step r) s = .next (rep, t) ∧ s.mode = .running ∧ s.fetch = some w ∧
      decodeWord w = .error (.unknownOpcode w) :=
  ⟨0, start 0xF0FF, _, _, 0xF0FF, rfl, rfl, rfl, rfl⟩

theorem witness_RandomByteReachesOnlyRnd : ∃ s : State, (∀ x kk, s.mode = .running → s.nextInstr ≠ some (.rnd x kk)) ∧
    s.nextInstr = some (.ldVB 0 5) := by
  have h : (start 0x6005).nextInstr = some (.ldVB 0 5) := rfl
  exact ⟨start 0x6005, fun x kk _ e => (by rw [h] at e; cases e), h⟩

theorem witness_DebugFieldsAffectNothing :
    (∃ s t : State, step s = .next t) ∧ (∃ (s : State) (c : Fault), step s = .fault c) :=
  ⟨⟨start 0x6005, _, rfl⟩, ⟨State.reset.takeFault .stackOverflow, _, rfl⟩⟩

theorem reset_meets_Inv : Inv State.reset :=
  { memory := rfl, depth := by decide, returns := (fun v h => by cases h), pcBound := by decide,
    waiting := (fun x b h => by cases h), fault := (fun c h => by cases h) }

theorem witness_StepKeepsInvariant : ∃ s t : State, Inv s ∧ step s = .next t := ⟨State.reset, _, reset_meets_Inv, rfl⟩

/-- The invariant also holds in a state in the middle of a key wait, and in a Faulted one. -/
theorem witness_Inv_waiting : Inv ((start 0xF30A).setMode (.awaitingKey 3 0)) :=
  { memory := (by decide), depth := by decide, returns := (fun v h => by cases h), pcBound := by decide,
    waiting := (fun x b h => by cases h; rfl), fault := (fun c h => by cases h) }

theorem witness_Inv_faulted : Inv ((start 0x00EE).takeFault .stackUnderflow) :=
  { memory := (by decide), depth := by decide, returns := (fun v h => by cases h), pcBound := by decide,
    waiting := (fun x b h => by cases h), fault := (fun c h => by cases h; exact ⟨rfl, rfl⟩) }

theorem witness_HostOperationsKeepInvariant : ∃ (op : HostOp) (s t : State) (rep : Reply), Inv s ∧
    hostOp op s = .next (rep, t) :=
  ⟨.step 0, State.reset, _, _, reset_meets_Inv, rfl⟩

theorem witness_StackChangesOnlyByCallAndRet :
    (∃ s t : State, step s = .next t ∧ t.stack ≠ s.stack ∧ s.nextInstr = some (.call 0x300)) ∧
    (∃ s t : State, step s = .next t ∧ t.stack ≠ s.stack ∧ s.nextInstr = some .ret) :=
  ⟨⟨stacked 15 (start 0x2300), _, rfl, by decide, rfl⟩, ⟨stacked 1 (start 0x00EE), _, rfl, by decide, rfl⟩⟩

theorem witness_TimersChangeOnlyByLoadAndTick :
    (∃ s t : State, step s = .next t ∧ t.DT ≠ s.DT) ∧ (∃ (i : Instr) (s t : State), exec i s = .next t ∧ t.ST ≠ s.ST) ∧
    (∃ (op : HostOp) (s t : State) (rep : Reply), (∀ r, op ≠ .step r) ∧ (∀ rom, op ≠ .init rom) ∧ op ≠ .advanceTimers ∧
      hostOp op s = .next (rep, t)) :=
  ⟨⟨(start 0xF115).setV 1 0x3C, _, rfl, by decide⟩, ⟨.ldSTV 2, (start 0xF218).setV 2 5, _, rfl, by decide⟩,
   ⟨.setKeyState 8, State.reset.setDT 3, _, _, (fun r h => by cases h), (fun rom h => by cases h), (fun h => by cases h), rfl⟩⟩

theorem witness_FramebufferWrittenOnlyByDisplay :
    (∃ s t : State, step s = .next t ∧ t.pixel 60 0 ≠ s.pixel 60 0) ∧
    (∃ s t : State, step s = .next t ∧ t.dirty ≠ s.dirty) ∧ (∃ s t : State, step s = .next t ∧ s.dirty = true) :=
  ⟨⟨drawing 60 0, _, rfl, by decide⟩, ⟨start 0x00E0, _, rfl, by decide⟩, ⟨{ start 0x6005 with dirty := true }, _, rfl, rfl⟩⟩

theorem witness_MemoryWrittenOnlyByStores :
    (∃ s t : State, step s = .next t ∧ t.byteAt 0xFFF ≠ s.byteAt 0xFFF ∧ s.nextInstr = some (.ldBV 0)) ∧
    (∃ s t : State, step s = .next t ∧ t.byteAt 0xFFF ≠ s.byteAt 0xFFF ∧ s.nextInstr = some (.ldMV 0)) :=
  ⟨⟨((start 0xF033).setI 0xFFD).setV 0 1, _, rfl, by decide, rfl⟩,
   ⟨((start 0xF055).setI 0xFFF).setV 0 7, _, rfl, by decide, rfl⟩⟩

theorem witness_VfWrittenOnlyAsFlagOrDestination :
    (∃ s t : State, exec (.addVV 0 1) s = .next t ∧ t.getV 15 ≠ s.getV 15) ∧
    (∃ s t : State, exec (.addVB 15 1) s = .next t ∧ t.getV 15 ≠ s.getV 15) :=
  ⟨⟨((start 0x8014).setV 0 0xFA).setV 1 0x0A, _, rfl, by decide⟩, ⟨start 0x7F01, _, rfl, by decide⟩⟩

theorem witness_JumpGoesToAddress : ∃ (nnn : Addr) (s t : State), exec (.jp nnn) s = .next t ∧ nnn = 0xFFF ∧
    t.mode = .running := ⟨0xFFF, State.reset, _, rfl, rfl, rfl⟩

/-- The words of the encoding clauses, with the operands at their largest values. -/
theorem witness_JumpGoesToAddress_word : ∃ (nnn : Addr) (w : Word), w.toNat = 0x1000 + nnn.toNat :=
  ⟨0xFFF, 0x1FFF, by decide⟩
theorem witness_CallPushesAndRetPops_word : ∃ (nnn : Addr) (w : Word), w.toNat = 0x2000 + nnn.toNat :=
  ⟨0xFFF, 0x2FFF, by decide⟩
theorem witness_RegisterCopy_word : ∃ (x y : Reg) (w : Word), w.toNat = 0x8000 + 0x100 * x.val + 0x10 * y.val :=
  ⟨15, 14, 0x8FE0, by decide⟩
theorem witness_IndexLoad_word : ∃ (nnn : Addr) (w : Word), w.toNat = 0xA000 + nnn.toNat := ⟨0xFFF, 0xAFFF, by decide⟩
theorem witness_TimerTransfers_words : ∃ (x : Reg) (u v w : Word), u.toNat = 0xF007 + 0x100 * x.val ∧
    v.toNat = 0xF015 + 0x100 * x.val ∧ w.toNat = 0xF018 + 0x100 * x.val :=
  ⟨15, 0xFF07, 0xFF15, 0xFF18, by decide, by decide, by decide⟩

/-- The four clauses: 15 and 16 entries; one entry and none. -/
theorem witness_CallPushesAndRetPops : (∃ s : State, s.stack.length < 16 ∧ s.stack.length = 15) ∧
    (∃ s : State, 16 ≤ s.stack.length) ∧ (∃ (s : State) (v : Word) (st : List Word), s.stack = v :: st) ∧
    (∃ s : State, s.stack = []) :=
  ⟨⟨stacked 15 State.reset, by decide, by decide⟩, ⟨stacked 16 State.reset, by decide⟩,
   ⟨stacked 1 State.reset, 0x202, [], rfl⟩, ⟨State.reset, rfl⟩⟩

theorem witness_CallThenRetReturns : ∃ s : State, s.stack.length < 16 ∧ s.stack.length = 15 :=
  ⟨stacked 15 State.reset, by decide, by decide⟩

/-- The premise that x is not F, in the three statements that have one, and both outcomes of each flag. -/
theorem witness_FlagsWithOtherDestination : ∃ (x y : Reg) (s t : State), x ≠ 15 ∧
    (s.getV x).toNat + (s.getV y).toNat > 255 ∧ (s.getV x).toNat > (s.getV y).toNat ∧
    ¬ (t.getV x).toNat + (t.getV y).toNat > 255 ∧ ¬ (t.getV x).toNat > (t.getV y).toNat :=
  ⟨0, 1, (State.reset.setV 0 0x81).setV 1 0x7F, State.reset, by decide, by decide, by decide, by decide, by decide⟩

theorem witness_RandomByteIsMasked : ∃ (x : Reg) (kk : Byte) (s : State), s.mode = .running ∧
    s.nextInstr = some (.rnd x kk) := ⟨3, 0x0F, start 0xC30F, rfl, rfl⟩

theorem witness_BcdStoresThreeDigits : ∃ s : State, Memory.wf s.cfg s.mem = true ∧ s.I.toNat + 2 < 4096 ∧ s.I = 0xFFD :=
  ⟨(start 0xF033).setI 0xFFD, by decide, by decide, rfl⟩

theorem witness_BlockStoreWritesRegisters : ∃ (x r : Reg) (s : State), Memory.wf s.cfg s.mem = true ∧
    s.I.toNat + x.val < 4096 ∧ r ≤ x ∧ s.I.toNat + x.val = 4095 :=
  ⟨15, 15, (start 0xFF55).setI 0xFF0, by decide, by decide, by decide, by decide⟩

theorem witness_BlockLoadReadsMemory : ∃ (x r : Reg) (s : State), s.I.toNat + x.val < 4096 ∧ r ≤ x ∧
    s.I.toNat + x.val = 4095 := ⟨0, 0, (start 0xF065).setI 0xFFF, by decide, by decide, by decide⟩

theorem witness_BlockLoadInvertsBlockStore : ∃ (x r : Reg) (s t u : State), Memory.wf s.cfg s.mem = true ∧
    s.I.toNat + x.val < 4096 ∧ exec (.ldMV x) s = .next t ∧ u.cfg = t.cfg ∧ u.mem = t.mem ∧ u.I = s.I ∧ r ≤ x ∧
      u.getV 0 ≠ t.getV 0 :=
  ⟨1, 1, ((start 0xF155).setI 0xFFE).setV 0 7, _,
   { State.reset with mem := Memory.write Config.standard (start 0xF155).mem 0xFFE 7, I := 0xFFE },
   by decide, by decide, rfl, rfl, by decide, rfl, by decide, by decide⟩

/-- Each clause at the first address that leaves memory. -/
theorem witness_OutOfRangeAccessFaults : ∃ (x : Reg) (n : Fin 16) (s t : State), s.I.toNat + 2 = 4096 ∧
    t.I.toNat + x.val = 4096 ∧ 0 < n.val ∧ t.I.toNat + n.val - 1 = 4096 :=
  ⟨1, 2, State.reset.setI 0xFFE, State.reset.setI 0xFFF, by decide, by decide, by decide, by decide⟩

theorem witness_StoreOverNextInstructionIsFetched : ∃ s t : State, Memory.wf s.cfg s.mem = true ∧ s.pc.toNat < 0xFFD ∧
    s.I.toNat = s.pc.toNat + 2 ∧ exec (.ldMV 1) s = .next t ∧ s.pc = 0xFFC :=
  ⟨(startAt 0xFFC 0xF155).setI 0xFFE, _, by decide, by decide, by decide, rfl, rfl⟩

theorem witness_CanonicalMemoryIsUnique : ∃ (c : Config) (m m' : Memory), Memory.wf c m = true ∧ Memory.wf c m' = true ∧
    (∀ a, a < 4096 → Memory.read c m a = Memory.read c m' a) ∧ m ≠ [] :=
  ⟨Config.standard, [(0, 1), (4095, 2)], [(0, 1), (4095, 2)], by decide, by decide, fun _ _ => rfl, by decide⟩

/-- The premise's two halves at their boundary; a pixel that the sprite sets and one that it does not; and both cases of the
flag. -/
theorem witness_DrawInvertsSpritePixels :
    (∃ (n : Fin 16) (s : State), n.val = 0 ∧ s.I = 0xFFFF) ∧
    (∃ (n : Fin 16) (s : State), n.val ≠ 0 ∧ s.I.toNat + n.val - 1 < 4096 ∧ s.I = 0xFFF) ∧
    SpriteSets (drawing 60 0) 60 0 1 3 0 ∧ ¬ SpriteSets (drawing 60 0) 60 0 1 3 1 ∧
    (∃ s t : State, exec (.drw 0 1 1) s = .next t ∧ s.pixel 0 0 = true ∧ t.pixel 0 0 = false) ∧
    (∃ s t : State, exec (.drw 0 1 1) s = .next t ∧ ∀ px py, s.pixel px py = true → t.pixel px py = true) := by
  refine ⟨⟨0, State.reset.setI 0xFFFF, rfl, rfl⟩, ⟨1, State.reset.setI 0xFFF, by decide, by decide, rfl⟩,
    ⟨0, 7, ⟨by decide, by decide, by decide, by decide⟩, by decide⟩, ?_,
    ⟨{ drawing 0 0 with FB := Vector.replicate 32 1 }, _, rfl, by decide, by decide⟩, ⟨drawing 0 0, _, rfl, ?_⟩⟩
  · rintro ⟨row, col, ⟨h1, -, -, h4⟩, -⟩
    have e : row = 0 := Nat.lt_one_iff.mp h1
    subst e
    exact absurd h4 (by decide)
  · intro px py h
    have h0 : (drawing 0 0).pixel px py = false := by
      show (Vector.replicate 32 (0 : BitVec 64))[py.val].getLsbD px.val = false
      simp
    rw [h0] at h
    cases h

theorem witness_SpriteRowBitOrder : ∃ (s t : State) (row col : Nat) (px : Fin 64) (py : Fin 32),
    s.I.toNat + (1 : Fin 16).val ≤ 4096 ∧ exec (.drw 0 1 1) s = .next t ∧ row < (1 : Fin 16).val ∧ col < 8 ∧
      px.val = ((s.getV 0).toNat + col) % 64 ∧ py.val = ((s.getV 1).toNat + row) % 32 :=
  ⟨(drawing 60 31).setI 0xFFF, _, 0, 7, 3, 31, by decide, rfl, by decide, by decide, by decide, by decide⟩

theorem witness_DrawTwiceRestoresFrame : ∃ (x y : Reg) (n : Fin 16) (s : State), x ≠ 15 ∧ y ≠ 15 ∧
    s.I.toNat + n.val ≤ 4096 ∧ s.I.toNat + n.val = 4096 :=
  ⟨14, 0, 15, State.reset.setI 0xFF1, by decide, by decide, by decide, by decide⟩

/-- 3584 and 3585 bytes; a byte of the ROM; addresses past it, in the font and outside both. -/
theorem witness_InitializeResetsAndLoads :
    (∃ rom : List Byte, rom.length ≤ 3584 ∧ rom[3583]? = some 7 ∧ 0x200 + rom.length ≤ 4096) ∧
    (∃ rom : List Byte, 3584 < rom.length ∧ rom.length = 3585) ∧
    (∃ (s : State) (a b : Nat), a < 0x200 ∧ a < s.cfg.fontBase.val ∧ b < 0x200 ∧ s.cfg.fontBase.val + 80 ≤ b) := by
  refine ⟨⟨List.replicate 3584 7, ?_, ?_, ?_⟩, ⟨List.replicate 3585 7, ?_, ?_⟩,
    ⟨State.reset, 0x4F, 0xA0, by decide, by decide, by decide, by decide⟩⟩
  · rw [List.length_replicate]
  · rw [List.getElem?_replicate_of_lt (by decide)]
  · rw [List.length_replicate]
  · rw [List.length_replicate]; decide
  · rw [List.length_replicate]

theorem witness_FirstFetchIsAtEntryPoint : ∃ (rom : List Byte) (s t : State), hostOp (.init rom) s = .next (.ok, t) ∧
    s.mode = .faulted .stackOverflow :=
  ⟨[0x12, 0x34], State.reset.takeFault .stackOverflow, _, rfl, rfl⟩

theorem witness_HostReadsAndWrites : (∃ a : Nat, a < 4096 ∧ a = 4095) ∧ (∃ a : Nat, 4096 ≤ a ∧ a = 4096) ∧
    (∃ (x : Fin 64) (y : Fin 32) (idx : Fin 2048), idx.val = y.val * 64 + x.val ∧ idx = 2047) :=
  ⟨⟨4095, by decide, rfl⟩, ⟨4096, by decide, rfl⟩, ⟨63, 31, 2047, by decide, rfl⟩⟩

/-- An operation that is no initialize; a ROM that fits and one that does not are in witness_InitializeResetsAndLoads. -/
theorem witness_NothingRunsBeforeInitialize : ∃ op : HostOp, ∀ rom, op ≠ .init rom :=
  ⟨.step 0, fun rom h => by cases h⟩

end Sys2Proof.Tests
end

section
/-! PROOF. CALL and RET (R80, R82): the decoding of the words of format NNN, the frame of an update of pc and of the stack, and
what CALL and RET answer on either side of their bounds. -/

namespace Sys2Proof

/-! ### Words of format NNN (R57) -/

theorem eq_wordOfNNN_of_toNat {d : BitVec 4} {nnn : Addr} {w : Word} (h : w.toNat = d.toNat * 4096 + nnn.toNat) :
    w = wordOfNNN d nnn :=
  BitVec.eq_of_toNat_eq (h.trans (wordOfNNN_toNat d nnn).symm)

@[simp] theorem fieldD1_wordOfNNN (d : BitVec 4) (nnn : Addr) : fieldD1 (wordOfNNN d nnn) = d := by
  apply BitVec.eq_of_toNat_eq
  rw [fieldD1_toNat, wordOfNNN_toNat]
  omega

@[simp] theorem fieldNNN_wordOfNNN (d : BitVec 4) (nnn : Addr) : fieldNNN (wordOfNNN d nnn) = nnn := by
  apply BitVec.eq_of_toNat_eq
  rw [fieldNNN_toNat, wordOfNNN_toNat]
  omega

theorem decodeWord_call (nnn : Addr) : decodeWord (wordOfNNN 0x2 nnn) = .ok (.call nnn) := by
  simp [decodeWord]

end Sys2Proof

namespace Sys2Proof.Machine

theorem addrOf_toNat (nnn : Addr) : (addrOf nnn).toNat = nnn.toNat :=
  BitVec.toNat_setWidth_of_le (by decide)

/-! ### Frames -/

theorem UnchangedExcept.mono {may may' : Component → Prop} {s t : State} (h : UnchangedExcept may s t)
    (hm : ∀ c, may c → may' c) : UnchangedExcept may' s t :=
  fun c hc => h c fun hmay => hc (hm c hmay)

theorem Component.same_trans {s t u : State} {c : Component} (hst : c.same s t) (htu : c.same t u) : c.same s u := by
  cases c <;> exact Eq.trans htu hst

theorem UnchangedExcept.trans {may : Component → Prop} {s t u : State} (hst : UnchangedExcept may s t)
    (htu : UnchangedExcept may t u) : UnchangedExcept may s u :=
  fun c hc => Component.same_trans (hst c hc) (htu c hc)

theorem unchangedExcept_setPc (s : State) (a : Word) : UnchangedExcept (fun c => c = .pc) s (s.setPc a) := by
  intro c hc
  cases c with
  | pc => exact absurd rfl hc
  | _ => rfl

theorem unchangedExcept_setStack (s : State) (st : List Word) :
    UnchangedExcept (fun c => c = .stack) s (s.setStack st) := by
  intro c hc
  cases c with
  | stack => exact absurd rfl hc
  | _ => rfl

/-- The update that CALL and RET share: a new stack, then a new pc. -/
theorem unchangedExcept_setStack_setPc (s : State) (st : List Word) (a : Word) :
    UnchangedExcept (fun c => c = .pc ∨ c = .stack) s ((s.setStack st).setPc a) :=
  ((unchangedExcept_setStack s st).mono fun _ => Or.inr).trans
    ((unchangedExcept_setPc (s.setStack st) a).mono fun _ => Or.inl)

/-! ### CALL and RET on either side of their bounds -/

theorem exec_call_of_lt {s : State} (nnn : Addr) (h : s.stack.length < 16) :
    exec (.call nnn) s = .next ((s.setStack ((s.pc + 2) :: s.stack)).setPc (addrOf nnn)) := by
  rcases exec_call_cases s nnn with ⟨_, e⟩ | ⟨hfull, _⟩
  · exact e
  · omega

theorem exec_call_of_full {s : State} (nnn : Addr) (h : 16 ≤ s.stack.length) :
    exec (.call nnn) s = .next (s.takeFault .stackOverflow) := by
  rcases exec_call_cases s nnn with ⟨hroom, _⟩ | ⟨_, e⟩
  · omega
  · exact e

theorem exec_ret_of_cons {s : State} {v : Word} {st : List Word} (h : s.stack = v :: st) :
    exec .ret s = .next ((s.setStack st).setPc v) := by
  rcases exec_ret_cases s with ⟨hnil, _⟩ | ⟨v', st', hcons, e⟩
  · cases h.symm.trans hnil
  · cases h.symm.trans hcons
    exact e

theorem exec_ret_of_nil {s : State} (h : s.stack = []) : exec .ret s = .next (s.takeFault .stackUnderflow) := by
  rcases exec_ret_cases s with ⟨_, e⟩ | ⟨v, st, hcons, _⟩
  · exact e
  · cases h.symm.trans hcons

/-- Settles O30, clause by clause: what CALL and RET answer within and at their bounds, and the frame of their common update. -/
theorem callPushesAndRetPops : Obligations.CallPushesAndRetPops := by
  unfold Obligations.CallPushesAndRetPops
  refine ⟨fun nnn w hw => ?_, fun nnn s h => ?_, fun nnn s h => exec_call_of_full nnn h, fun s v st h => ?_,
    fun s h => exec_ret_of_nil h⟩
  · rw [eq_wordOfNNN_of_toNat (d := 0x2) hw]
    exact decodeWord_call nnn
  · exact ⟨_, s.pc + 2, exec_call_of_lt nnn h, rfl, BitVec.toNat_add s.pc 2, addrOf_toNat nnn,
      unchangedExcept_setStack_setPc s _ _⟩
  · exact ⟨_, exec_ret_of_cons h, rfl, rfl, unchangedExcept_setStack_setPc s st v⟩

end Sys2Proof.Machine
end

section
/-! PROOF. The fields of an opcode as numbers (R56). -/

namespace Sys2Proof

/-- The top nibble needs no reduction modulo 16: an opcode is below 16 * 4096. -/
theorem fieldD1_toNat_eq_div (w : Word) : (fieldD1 w).toNat = w.toNat / 4096 := by
  have hlt : w.toNat / 4096 < 16 := Nat.div_lt_of_lt_mul w.isLt
  rw [fieldD1_toNat, Nat.mod_eq_of_lt hlt]

/-- Settles O1, field by field from the laws of the six fields. -/
theorem fieldsSplitOpcode : Obligations.FieldsSplitOpcode := by
  unfold Obligations.FieldsSplitOpcode
  exact fun w => ⟨fieldD1_toNat_eq_div w, fieldX_val w, fieldY_val w, fieldN_val w, fieldNNN_toNat w, fieldKK_toNat w⟩

end Sys2Proof
end

section
/-! PROOF. Fetch (R68), and the random byte of a step (R77): every part of a step but Cxkk carries the byte that the host
passed along unread, so that the host, who takes it back after the step, sees no trace of it. -/

namespace Sys2Proof.Machine

/-! ### Fetch -/

/-- Settles O6: the two bytes are the quotient and the remainder of their opcode by 256. -/
theorem fetchReadsTwoBytesBigEndian : Obligations.FetchReadsTwoBytesBigEndian := by
  unfold Obligations.FetchReadsTwoBytesBigEndian
  intro s hp
  refine ⟨_, fetch_of_lt (by omega), ?_⟩
  have hlow := (s.byteAt (s.pc.toNat + 1)).isLt
  rw [opcodeOf_toNat]
  constructor <;> omega

/-! ### The shared operations carry the byte along -/

/-- The outcome with the byte r in its next state. -/
def supplyNext (r : Byte) : Result → Result
  | .next t => .next (t.supply r)
  | .fault c => .fault c
  | .refused q => .refused q

section
variable (s : State) (r : Byte)

theorem next_skipIf_supply (c : Bool) : .next ((s.supply r).skipIf c) = supplyNext r (.next (s.skipIf c)) := by
  cases c <;> rfl

theorem guardRange_supply {t t' : State} (a len : Nat) (h : t' = t.supply r) :
    guardRange (s.supply r) a len t' = supplyNext r (guardRange s a len t) := by
  rw [h]
  unfold guardRange
  cases inRange a len <;> rfl

theorem regsLoadedBelow_supply (k : Nat) : regsLoadedBelow (s.supply r) k = regsLoadedBelow s k := by
  induction k with
  | zero => rfl
  | succ k ih => rw [regsLoadedBelow, regsLoadedBelow, ih, State.supply_byteAt]; rfl

theorem awaitStep_supply (x : Reg) (base : Word) :
    awaitStep x base (s.supply r) = (awaitStep x base s).supply r := by
  have hkeys : newKeys (s.supply r) base = newKeys s base := rfl
  unfold awaitStep
  rw [hkeys]
  cases leastKey (newKeys s base) <;> rfl

theorem countInstr_supply : (s.supply r).countInstr = s.countInstr.supply r := by
  unfold State.countInstr
  rw [State.supply_mode, State.supply_debugEnabled]
  cases s.mode with
  | faulted c => rfl
  | _ => cases s.debugEnabled <;> rfl

theorem retire_supplyNext (q : Result) : retire (supplyNext r q) = supplyNext r (retire q) := by
  cases q with
  | next t => exact congrArg _ (countInstr_supply t r)
  | _ => rfl

/-! ### So do the instructions but Cxkk, and the step -/

theorem exec_supply {i : Instr} (hi : ∀ x kk, i ≠ .rnd x kk) : exec i (s.supply r) = supplyNext r (exec i s) := by
  cases i with
  | rnd x kk => exact absurd rfl (hi x kk)
  | call nnn =>
    rcases exec_call_cases s nnn with ⟨hroom, e⟩ | ⟨hfull, e⟩
    · rw [e, exec_call_of_lt (s := s.supply r) nnn hroom]; rfl
    · rw [e, exec_call_of_full (s := s.supply r) nnn hfull]; rfl
  | ret =>
    rcases exec_ret_cases s with ⟨hnil, e⟩ | ⟨v, st, hcons, e⟩
    · rw [e, exec_ret_of_nil (s := s.supply r) hnil]; rfl
    · rw [e, exec_ret_of_cons (s := s.supply r) hcons]; rfl
  | seVB | sneVB | seVV | sneVV | skp | sknp => exact next_skipIf_supply s r _
  | ldBV | ldMV | drw => exact guardRange_supply s r _ _ rfl
  | ldVM x =>
    refine guardRange_supply s r _ _ ?_
    rw [regsLoaded, regsLoadedBelow_supply]
    rfl
  | _ => rfl

theorem step_supply (h : ∀ x kk, s.mode = .running → s.nextInstr ≠ some (.rnd x kk)) :
    step (s.supply r) = supplyNext r (step s) := by
  cases hm : s.mode with
  | faulted c => rw [step_of_faulted hm, step_of_faulted (s := s.supply r) hm]; rfl
  | awaitingKey x base =>
    rw [step_of_awaiting hm, step_of_awaiting (s := s.supply r) hm, awaitStep_supply]
    rfl
  | running =>
    by_cases hp : s.pc.toNat < 0xFFF
    · cases hn : s.nextInstr with
      | none =>
        rw [step_of_unknown hm hp hn, step_of_unknown (s := s.supply r) hm hp hn]
        exact congrArg _ (countInstr_supply s.advance r)
      | some i =>
        have hi : ∀ x kk, i ≠ .rnd x kk := fun x kk e => h x kk hm (hn.trans (congrArg some e))
        rw [step_of_instr hm hn, step_of_instr (s := s.supply r) hm hn, exec_supply s r hi, retire_supplyNext]
    · have hout : 0xFFF ≤ s.pc.toNat := Nat.le_of_not_lt hp
      rw [step_of_outOfBounds hm hout, step_of_outOfBounds (s := s.supply r) hm hout]
      rfl

end

/-- Settles O17: both steps are the step from s itself with a byte carried along, and the host takes that byte back. -/
theorem randomByteReachesOnlyRnd : Obligations.RandomByteReachesOnlyRnd := by
  unfold Obligations.RandomByteReachesOnlyRnd
  intro s r r' h
  show hostStep r s = hostStep r' s
  unfold hostStep
  rw [step_supply s r h, step_supply s r' h]
  cases step s <;> rfl

end Sys2Proof.Machine
end

section
/-! PROOF. JP (R81): its word decodes to it, it sets only pc, and after a jump to the last byte of memory the
next fetch is out of bounds. -/

namespace Sys2Proof

theorem decodeWord_jp (nnn : Addr) : decodeWord (wordOfNNN 0x1 nnn) = .ok (.jp nnn) := by
  simp [decodeWord]

end Sys2Proof

namespace Sys2Proof.Machine

/-- A fetch of two bytes at 0xFFF, the last byte of memory, would leave it (R69). -/
theorem step_setPc_last {s : State} (h : s.mode = .running) :
    step (s.setPc (addrOf 0xFFF)) = .next ((s.setPc (addrOf 0xFFF)).takeFault .fetchOutOfBounds) :=
  step_of_outOfBounds h (Nat.le_of_eq (addrOf_toNat 0xFFF).symm)

/-- Settles O28: the encoding, then the one update of pc, its frame, and the step after a jump to 0xFFF. -/
theorem jumpGoesToAddress : Obligations.JumpGoesToAddress := by
  unfold Obligations.JumpGoesToAddress
  refine ⟨fun nnn w hw => ?_, fun nnn s =>
    ⟨_, exec_jp s nnn, addrOf_toNat nnn, unchangedExcept_setPc s _, fun hlast hrun => ?_⟩⟩
  · rw [eq_wordOfNNN_of_toNat (d := 0x1) hw]
    exact decodeWord_jp nnn
  · subst hlast
    exact ⟨_, step_setPc_last hrun, State.takeFault_mode _ _⟩

end Sys2Proof.Machine
end

section
/-! PROOF. LD Vx, Vy (R92): the fields of a word given by its four nibbles, the decoding of 8xy0, and the frame of a write
to one register. -/

namespace Sys2Proof

/-! ### Words given by four nibbles (R57) -/

theorem eq_wordOfNibbles_of_toNat {d : BitVec 4} {x y n : Fin 16} {w : Word}
    (h : w.toNat = d.toNat * 4096 + x.val * 256 + y.val * 16 + n.val) : w = wordOfNibbles d x y n :=
  BitVec.eq_of_toNat_eq (h.trans (wordOfNibbles_toNat d x y n).symm)

@[simp] theorem fieldD1_wordOfNibbles (d : BitVec 4) (x y n : Fin 16) : fieldD1 (wordOfNibbles d x y n) = d := by
  apply BitVec.eq_of_toNat_eq
  rw [fieldD1_toNat, wordOfNibbles_toNat]
  omega

@[simp] theorem fieldX_wordOfNibbles (d : BitVec 4) (x y n : Fin 16) : fieldX (wordOfNibbles d x y n) = x := by
  apply Fin.ext
  rw [fieldX_val, wordOfNibbles_toNat]
  omega

@[simp] theorem fieldY_wordOfNibbles (d : BitVec 4) (x y n : Fin 16) : fieldY (wordOfNibbles d x y n) = y := by
  apply Fin.ext
  rw [fieldY_val, wordOfNibbles_toNat]
  omega

@[simp] theorem fieldN_wordOfNibbles (d : BitVec 4) (x y n : Fin 16) : fieldN (wordOfNibbles d x y n) = n := by
  apply Fin.ext
  rw [fieldN_val, wordOfNibbles_toNat]
  omega

theorem decodeWord_ldVV (x y : Reg) : decodeWord (wordOfNibbles 0x8 x y 0x0) = .ok (.ldVV x y) := by
  simp [decodeWord, decodeGroup8]

end Sys2Proof

namespace Sys2Proof.Machine

theorem unchangedExcept_setV (s : State) (r : Reg) (v : Byte) :
    UnchangedExcept (fun c => c = .reg r) s (s.setV r v) := by
  intro c hc
  cases c with
  | reg q => exact State.getV_setV_ne s v fun hq => hc (congrArg Component.reg hq)
  | _ => rfl

/-- The update of an instruction that writes one register: the register, then pc to the next instruction. -/
theorem unchangedExcept_setV_advance (s : State) (r : Reg) (v : Byte) :
    UnchangedExcept (fun c => c = .pc ∨ c = .reg r) s (s.setV r v).advance :=
  ((unchangedExcept_setV s r v).mono fun _ => Or.inr).trans
    ((unchangedExcept_setPc (s.setV r v) _).mono fun _ => Or.inl)

theorem pcAdvances_advance (s : State) : PcAdvances 2 s s.advance :=
  BitVec.toNat_add s.pc 2

/-- Settles O34: the encoding, then the one register written, the new pc and the frame. -/
theorem registerCopy : Obligations.RegisterCopy := by
  unfold Obligations.RegisterCopy
  refine ⟨fun x y w hw => ?_, fun x y s => ⟨_, exec_ldVV s x y, State.getV_setV_same s x (s.getV y),
    pcAdvances_advance (s.setV x (s.getV y)), unchangedExcept_setV_advance s x (s.getV y)⟩⟩
  have hnibbles : w = wordOfNibbles 0x8 x y 0x0 := by
    apply eq_wordOfNibbles_of_toNat
    show w.toNat = 8 * 4096 + x.val * 256 + y.val * 16 + 0
    omega
  rw [hnibbles]
  exact decodeWord_ldVV x y

end Sys2Proof.Machine
end

section
/-! PROOF. LD I, nnn (R102): the decoding of Annn, and the frame of the update of I and pc. -/

namespace Sys2Proof

theorem decodeWord_ldIA (nnn : Addr) : decodeWord (wordOfNNN 0xA nnn) = .ok (.ldIA nnn) := by
  simp [decodeWord]

end Sys2Proof

namespace Sys2Proof.Machine

theorem unchangedExcept_setI (s : State) (a : Word) : UnchangedExcept (fun c => c = .index) s (s.setI a) := by
  intro c hc
  cases c with
  | index => exact absurd rfl hc
  | _ => rfl

/-- The update of an instruction that writes only I: the index, then pc to the next instruction. -/
theorem unchangedExcept_setI_advance (s : State) (a : Word) :
    UnchangedExcept (fun c => c = .pc ∨ c = .index) s (s.setI a).advance :=
  ((unchangedExcept_setI s a).mono fun _ => Or.inr).trans
    ((unchangedExcept_setPc (s.setI a) _).mono fun _ => Or.inl)

/-- Settles O39: the encoding, then the new I, the new pc and the frame of their common update. -/
theorem indexLoad : Obligations.IndexLoad := by
  unfold Obligations.IndexLoad
  refine ⟨fun nnn w hw => ?_, fun nnn s => ⟨_, exec_ldIA s nnn, addrOf_toNat nnn,
    pcAdvances_advance (s.setI (addrOf nnn)), unchangedExcept_setI_advance s (addrOf nnn)⟩⟩
  rw [eq_wordOfNNN_of_toNat (d := 0xA) hw]
  exact decodeWord_ldIA nnn

end Sys2Proof.Machine
end

section
/-! PROOF. The pixels of a draw (R110, R111). A sprite has at most 8 columns and 15 rows, so no two of its source pixels meet on
the 64 by 32 screen: every pixel is inverted by at most one of them. The screen coordinates are written as screenX vx col and
screenY vy row, with col < 64 and row < 32: each pixel of the screen has exactly one such col and row. -/

namespace Sys2Proof.Machine

/-! ### Wrapping keeps the source coordinates apart -/

theorem screenX_inj (vx : Byte) {col col' : Nat} (h : col < 64) (h' : col' < 64) :
    screenX vx col = screenX vx col' ↔ col = col' := by
  rw [Fin.ext_iff]
  show (col + vx.toNat) % 64 = (col' + vx.toNat) % 64 ↔ col = col'
  omega

theorem screenY_inj (vy : Byte) {row row' : Nat} (h : row < 32) (h' : row' < 32) :
    screenY vy row = screenY vy row' ↔ row = row' := by
  rw [Fin.ext_iff]
  show (row + vy.toNat) % 32 = (row' + vy.toNat) % 32 ↔ row = row'
  omega

/-! ### Each pixel after a row, after all rows, after the instruction -/

section
variable (c : Canvas) (vx vy : Byte)

theorem drawCols_pixel (row : Nat) (b : Byte) (py : Fin 32) {col k : Nat} (hcol : col < 64) (hk : k ≤ 64) :
    Frame.pixel (c.drawCols vx vy row b k).fb (screenX vx col) py =
      (Frame.pixel c.fb (screenX vx col) py ^^ (decide (col < k ∧ py = screenY vy row) && spriteBit b col)) := by
  induction k with
  | zero => simp [Canvas.drawCols]
  | succ k ih =>
    rw [Canvas.drawCols, plot_pixel, ih (by omega)]
    simp only [screenX_inj vx hcol hk]
    by_cases hlast : col = k
    · subst hlast
      simp [Bool.and_comm]
    · have hlt : col < k + 1 ↔ col < k := by omega
      simp [hlast, hlt]

theorem drawRows_pixel (sprite : List Byte) {row col k : Nat} (hrow : row < 32) (hcol : col < 64) (hk : k ≤ 32) :
    Frame.pixel (c.drawRows vx vy sprite k).fb (screenX vx col) (screenY vy row) =
      (Frame.pixel c.fb (screenX vx col) (screenY vy row) ^^
        (decide (row < k ∧ col < 8) && spriteBit (sprite.getD row 0) col)) := by
  induction k with
  | zero => simp [Canvas.drawRows]
  | succ k ih =>
    rw [Canvas.drawRows, drawCols_pixel _ vx vy _ _ _ hcol (by decide), ih (by omega)]
    simp only [screenY_inj vy hrow hk]
    by_cases hlast : row = k
    · subst hlast
      simp
    · have hlt : row < k + 1 ↔ row < k := by omega
      simp [hlast, hlt]

end

theorem spriteBytes_getD (s : State) {n : Fin 16} {row : Nat} (h : row < n.val) :
    (spriteBytes s n).getD row 0 = s.byteAt (s.I.toNat + row) := by
  simp [spriteBytes, indexAddr, h]

/-- Source column 0 is bit 7, and source row 0 the byte at I (R111). -/
theorem drawnCanvas_pixel (s : State) (x y : Reg) (n : Fin 16) {row col : Nat} (hrow : row < n.val) (hcol : col < 8) :
    Frame.pixel (drawnCanvas s x y n).fb (screenX (s.getV x) col) (screenY (s.getV y) row) =
      (s.pixel (screenX (s.getV x) col) (screenY (s.getV y) row) ^^
        (s.byteAt (s.I.toNat + row)).getLsbD (7 - col)) := by
  rw [drawnCanvas, drawRows_pixel _ _ _ _ (by omega) (by omega) (by omega), spriteBytes_getD s hrow]
  simp [hrow, hcol, spriteBit, State.pixel]

theorem exec_drw_of_inRange {s : State} (x y : Reg) {n : Fin 16} (h : s.I.toNat + n.val ≤ 4096) :
    exec (.drw x y n) s =
      .next ((s.setFB (drawnCanvas s x y n).fb).setV VF (collisionFlag (drawnCanvas s x y n).erased)).advance := by
  rcases exec_drw_cases s x y n with ⟨_, e⟩ | ⟨⟨_, hout⟩, _⟩
  · exact e
  · omega

/-- Settles O51: the draw stays in memory, and its frame is that of `drawnCanvas`. -/
theorem spriteRowBitOrder : Obligations.SpriteRowBitOrder := by
  unfold Obligations.SpriteRowBitOrder
  intro x y n s t hI hexec row col px py hrow hcol hpx hpy
  have hX : px = screenX (s.getV x) col := Fin.ext (hpx.trans (by rw [Nat.add_comm]; rfl))
  have hY : py = screenY (s.getV y) row := Fin.ext (hpy.trans (by rw [Nat.add_comm]; rfl))
  cases (exec_drw_of_inRange x y hI).symm.trans hexec
  rw [hX, hY]
  exact drawnCanvas_pixel s x y n hrow hcol

end Sys2Proof.Machine
end

section
/-! PROOF. The timer transfers (R112, R113, R114): the fields of a word of format XKK, the decoding of Fx07, Fx15 and Fx18, and
the frame of a write to a timer. -/

namespace Sys2Proof

/-! ### Words of format XKK (R57) -/

/-- The sum is in the order in which opcodes are written out: the constant nibble and byte first, then x. -/
theorem eq_wordOfXKK_of_toNat {d : BitVec 4} {x : Reg} {kk : Byte} {w : Word}
    (h : w.toNat = d.toNat * 4096 + kk.toNat + 0x100 * x.val) : w = wordOfXKK d x kk := by
  apply BitVec.eq_of_toNat_eq
  rw [wordOfXKK_toNat]
  omega

@[simp] theorem fieldD1_wordOfXKK (d : BitVec 4) (x : Reg) (kk : Byte) : fieldD1 (wordOfXKK d x kk) = d := by
  apply BitVec.eq_of_toNat_eq
  rw [fieldD1_toNat, wordOfXKK_toNat]
  omega

@[simp] theorem fieldX_wordOfXKK (d : BitVec 4) (x : Reg) (kk : Byte) : fieldX (wordOfXKK d x kk) = x := by
  apply Fin.ext
  rw [fieldX_val, wordOfXKK_toNat]
  omega

@[simp] theorem fieldKK_wordOfXKK (d : BitVec 4) (x : Reg) (kk : Byte) : fieldKK (wordOfXKK d x kk) = kk := by
  apply BitVec.eq_of_toNat_eq
  rw [fieldKK_toNat, wordOfXKK_toNat]
  omega

theorem decodeWord_ldVDT (x : Reg) : decodeWord (wordOfXKK 0xF x 0x07) = .ok (.ldVDT x) := by
  simp [decodeWord, decodeGroupF]

theorem decodeWord_ldDTV (x : Reg) : decodeWord (wordOfXKK 0xF x 0x15) = .ok (.ldDTV x) := by
  simp [decodeWord, decodeGroupF]

theorem decodeWord_ldSTV (x : Reg) : decodeWord (wordOfXKK 0xF x 0x18) = .ok (.ldSTV x) := by
  simp [decodeWord, decodeGroupF]

end Sys2Proof

namespace Sys2Proof.Machine

/-! ### Frames of the timers -/

theorem unchangedExcept_setDT (s : State) (v : Byte) : UnchangedExcept (fun c => c = .delayTimer) s (s.setDT v) := by
  intro c hc
  cases c with
  | delayTimer => exact absurd rfl hc
  | _ => rfl

theorem unchangedExcept_setST (s : State) (v : Byte) : UnchangedExcept (fun c => c = .soundTimer) s (s.setST v) := by
  intro c hc
  cases c with
  | soundTimer => exact absurd rfl hc
  | _ => rfl

/-- Any update of one part, followed by the move of pc to the next instruction. -/
theorem UnchangedExcept.advance {p : Component} {s t : State} (h : UnchangedExcept (fun c => c = p) s t) :
    UnchangedExcept (fun c => c = .pc ∨ c = p) s t.advance :=
  (h.mono fun _ => Or.inr).trans ((unchangedExcept_setPc t _).mono fun _ => Or.inl)

/-- Settles O53: the three encodings, then for each transfer the part written, the new pc and the frame. -/
theorem timerTransfers : Obligations.TimerTransfers := by
  unfold Obligations.TimerTransfers
  refine ⟨fun x w => ⟨fun hw => ?_, fun hw => ?_, fun hw => ?_⟩, fun x s => ⟨?_, ?_, ?_⟩⟩
  · rw [eq_wordOfXKK_of_toNat (d := 0xF) (kk := 0x07) hw]
    exact decodeWord_ldVDT x
  · rw [eq_wordOfXKK_of_toNat (d := 0xF) (kk := 0x15) hw]
    exact decodeWord_ldDTV x
  · rw [eq_wordOfXKK_of_toNat (d := 0xF) (kk := 0x18) hw]
    exact decodeWord_ldSTV x
  · exact ⟨_, exec_ldVDT s x, State.getV_setV_same s x s.DT, pcAdvances_advance (s.setV x s.DT),
      unchangedExcept_setV_advance s x s.DT⟩
  · exact ⟨_, exec_ldDTV s x, rfl, pcAdvances_advance (s.setDT (s.getV x)),
      (unchangedExcept_setDT s (s.getV x)).advance⟩
  · exact ⟨_, exec_ldSTV s x, rfl, pcAdvances_advance (s.setST (s.getV x)),
      (unchangedExcept_setST s (s.getV x)).advance⟩

end Sys2Proof.Machine
end

section
/-! PROOF. How the host sees a fatal error (R119): an instruction always answers a next state, so that a step answers a fault
in mode Faulted only; the reply of the host's step is then read off the state after it. And what read_registers shows
(R134). -/

namespace Sys2Proof.Machine

/-! ### Outside mode Faulted a step answers a next state (R73) -/

/-- The shape of the laws of the instructions with a check: both of their cases answer a next state. -/
theorem next_of_two_cases {p q : Prop} {res : Result} {t u : State}
    (h : (p ∧ res = .next t) ∨ (q ∧ res = .next u)) : ∃ v, res = .next v := by
  rcases h with ⟨_, e⟩ | ⟨_, e⟩
  · exact ⟨t, e⟩
  · exact ⟨u, e⟩

/-- An instruction that meets a fatal error takes it: the fault is in the next state, not in the outcome. -/
theorem exec_answers_next (i : Instr) (s : State) : ∃ t, exec i s = .next t := by
  cases i with
  | call nnn => exact next_of_two_cases (exec_call_cases s nnn)
  | ret =>
    rcases exec_ret_cases s with ⟨_, e⟩ | ⟨_, _, _, e⟩
    · exact ⟨_, e⟩
    · exact ⟨_, e⟩
  | ldBV x => exact next_of_two_cases (exec_ldBV_cases s x)
  | ldMV x => exact next_of_two_cases (exec_ldMV_cases s x)
  | ldVM x => exact next_of_two_cases (exec_ldVM_cases s x)
  | drw x y n => exact next_of_two_cases (exec_drw_cases s x y n)
  | _ => exact ⟨_, rfl⟩

theorem step_answers_next {s : State} (h : ∀ c, s.mode ≠ .faulted c) : ∃ t, step s = .next t := by
  cases hm : s.mode with
  | faulted c => exact absurd hm (h c)
  | awaitingKey x base => exact ⟨_, step_of_awaiting hm⟩
  | running =>
    by_cases hp : s.pc.toNat < 0xFFF
    · cases hn : s.nextInstr with
      | none => exact ⟨_, step_of_unknown hm hp hn⟩
      | some i =>
        obtain ⟨t, e⟩ := exec_answers_next i s
        exact ⟨t.countInstr, by rw [step_of_instr hm hn, e, retire_next]⟩
    · exact ⟨_, step_of_outOfBounds hm (Nat.le_of_not_lt hp)⟩

/-! ### The reply of the host's step -/

theorem stepReply_eq_fault_iff (t : State) (c : Fault) : stepReply t = .fault c ↔ t.mode = .faulted c := by
  unfold stepReply
  cases t.mode <;> simp

theorem stepReply_of_running {t : State} (h : t.mode = .running) : stepReply t = .ok := by
  unfold stepReply
  rw [h]

theorem hostStep_of_faulted {s : State} {c : Fault} (r : Byte) (h : s.mode = .faulted c) :
    hostStep r s = .next (.fault c, s) := by
  unfold hostStep
  rw [step_of_faulted (s := s.supply r) h]

theorem hostStep_of_next {r : Byte} {s t : State} (h : step (s.supply r) = .next t) :
    hostStep r s = .next (stepReply t, t.unsupply) := by
  unfold hostStep
  rw [h]

/-- The reply tells the mode after the step, also where a Faulted core answers without a step. -/
theorem reply_of_hostStep {r : Byte} {s t : State} {rep : Reply} (h : hostStep r s = .next (rep, t)) :
    rep = stepReply t := by
  by_cases hf : ∃ c, s.mode = .faulted c
  · obtain ⟨c, hc⟩ := hf
    cases (hostStep_of_faulted r hc).symm.trans h
    exact ((stepReply_eq_fault_iff s c).mpr hc).symm
  · obtain ⟨u, hu⟩ := step_answers_next (s := s.supply r) (fun c hc => hf ⟨c, hc⟩)
    cases (hostStep_of_next hu).symm.trans h
    rfl

/-! ### An unknown opcode is no fault (R62) -/

theorem nextInstr_of_decodeWord_error {s : State} {w : Word} {e : DecodeError} (hf : s.fetch = some w)
    (hd : decodeWord w = .error e) : s.nextInstr = none := by
  unfold State.nextInstr
  rw [hf]
  simp [hd, Except.toOption]

/-- The no-op of an unknown opcode ends in the mode in which it began. -/
theorem hostStep_mode_of_unknown {r : Byte} {s t : State} {rep : Reply} {w : Word} {e : DecodeError}
    (h : hostStep r s = .next (rep, t)) (hm : s.mode = .running) (hf : s.fetch = some w)
    (hd : decodeWord w = .error e) : t.mode = .running := by
  have hstep : step (s.supply r) = .next (s.supply r).advance.countInstr :=
    step_of_unknown hm (fetch_isSome hf) (nextInstr_of_decodeWord_error hf hd)
  cases (hostStep_of_next hstep).symm.trans h
  exact (State.countInstr_mode _).trans hm

/-- Settles O16: the reply is `stepReply` of the state after the step, read_registers shows that state's mode, and an unknown
opcode leaves the mode Running. -/
theorem faultReportedByReplyAndMode : Obligations.FaultReportedByReplyAndMode := by
  unfold Obligations.FaultReportedByReplyAndMode
  intro r s t rep h
  have hrep : rep = stepReply t := reply_of_hostStep h
  refine ⟨fun c => ?_, ⟨t.registerView, rfl, rfl⟩, fun w hm hf hd => ?_⟩
  · rw [hrep]
    exact stepReply_eq_fault_iff t c
  · have ht : t.mode = .running := hostStep_mode_of_unknown h hm hf hd
    exact ⟨hrep.trans (stepReply_of_running ht), ht⟩

/-- Settles O58: the view that read_registers answers, field by field. -/
theorem readRegistersShowsState : Obligations.ReadRegistersShowsState := by
  unfold Obligations.ReadRegistersShowsState
  exact fun s => ⟨s.registerView, rfl, fun _ => rfl, rfl, rfl, rfl, rfl, rfl, rfl, rfl⟩

end Sys2Proof.Machine
end

section
/-! PROOF. The entry point (R144): an initialize that answers Ok leaves the reset state with the ROM stored into it, and a store
moves neither pc nor the mode. -/

namespace Sys2Proof.Machine

/-- An initialize that answers Ok was given a ROM that fits, and leaves the reset values with the ROM from 0x200 on. -/
theorem eq_storeRun_of_hostOp_init_ok {rom : List Byte} {s t : State} (h : hostOp (.init rom) s = .next (.ok, t)) :
    rom.length ≤ 3584 ∧ t = s.zeroed.storeRun 0x200 rom := by
  simp only [hostOp, hostInit] at h
  rcases boot_cases s rom with ⟨hlen, hboot⟩ | ⟨_, hboot⟩
  · rw [hboot] at h
    cases h
    exact ⟨hlen, rfl⟩
  · rw [hboot] at h
    cases h

theorem fetch_at_entry {t : State} (hpc : t.pc = 0x200) :
    t.fetch = some (opcodeOf (t.byteAt 0x200) (t.byteAt 0x201)) := by
  have hnat : t.pc.toNat = 0x200 := by rw [hpc]; rfl
  rw [fetch_of_lt (by omega), hnat]

/-- Settles O57: mode and pc are those of the reset values under the stored ROM, and a pc of 0x200 can fetch. -/
theorem firstFetchIsAtEntryPoint : Obligations.FirstFetchIsAtEntryPoint := by
  unfold Obligations.FirstFetchIsAtEntryPoint
  intro rom s t h
  obtain ⟨_, rfl⟩ := eq_storeRun_of_hostOp_init_ok h
  have hpc : (s.zeroed.storeRun 0x200 rom).pc = 0x200 := by simp
  exact ⟨by simp, hpc, fetch_at_entry hpc⟩

end Sys2Proof.Machine
end

section
/-! PROOF. Decoder and encoder against each other (R57, R60, R61, R62): each word is put together again from its fields, each
encoding has the fields it was made of, and so the two functions are inverse to each other on the words that decode. -/

namespace Sys2Proof

/-! ### A word is made of its fields (R56, R57) -/

theorem wordOfNNN_fields {w : Word} {d : BitVec 4} (hd : fieldD1 w = d) : wordOfNNN d (fieldNNN w) = w := by
  subst hd
  apply BitVec.eq_of_toNat_eq
  rw [wordOfNNN_toNat, fieldD1_toNat, fieldNNN_toNat]
  omega

theorem wordOfXKK_fields {w : Word} {d : BitVec 4} {kk : Byte} (hd : fieldD1 w = d) (hk : fieldKK w = kk) :
    wordOfXKK d (fieldX w) kk = w := by
  subst hd hk
  apply BitVec.eq_of_toNat_eq
  rw [wordOfXKK_toNat, fieldD1_toNat, fieldX_val, fieldKK_toNat]
  omega

theorem wordOfNibbles_fields {w : Word} {d : BitVec 4} {n : Fin 16} (hd : fieldD1 w = d) (hn : fieldN w = n) :
    wordOfNibbles d (fieldX w) (fieldY w) n = w := by
  subst hd hn
  apply BitVec.eq_of_toNat_eq
  rw [wordOfNibbles_toNat, fieldD1_toNat, fieldX_val, fieldY_val, fieldN_val]
  omega

/-! ### Decoding an encoding (R60) -/

theorem wordOfNNN_inj {d : BitVec 4} {a b : Addr} : wordOfNNN d a = wordOfNNN d b ↔ a = b :=
  ⟨fun h => by simpa using congrArg fieldNNN h, congrArg _⟩

theorem wf_sys_iff (nnn : Addr) : (Instr.sys nnn).wf = true ↔ nnn ≠ 0x0E0 ∧ nnn ≠ 0x0EE := by
  rw [Instr.wf, Bool.and_eq_true, bne_iff_ne, bne_iff_ne]

/-- Only the words of CLS and RET take precedence over SYS (R61). -/
theorem decodeWord_sys {nnn : Addr} (h : (Instr.sys nnn).wf = true) :
    decodeWord (wordOfNNN 0x0 nnn) = .ok (.sys nnn) := by
  obtain ⟨hcls, hret⟩ := (wf_sys_iff nnn).mp h
  have hgroup : decodeWord (wordOfNNN 0x0 nnn) = .ok (decodeGroup0 (wordOfNNN 0x0 nnn)) :=
    if_pos (fieldD1_wordOfNNN 0x0 nnn)
  have hcls' : wordOfNNN 0x0 nnn ≠ 0x00E0 := fun e => hcls (wordOfNNN_inj.mp e)
  have hret' : wordOfNNN 0x0 nnn ≠ 0x00EE := fun e => hret (wordOfNNN_inj.mp e)
  rw [hgroup, decodeGroup0, if_neg hcls', if_neg hret', fieldNNN_wordOfNNN]

theorem decodeWord_encodeWord {i : Instr} (h : i.wf = true) : decodeWord (encodeWord i) = .ok i := by
  cases i with
  | cls | ret => rfl
  | sys nnn => exact decodeWord_sys h
  | ldVV | orVV | andVV | xorVV | addVV | subVV | shr | subn | shl => simp [encodeWord, decodeWord, decodeGroup8]
  | skp | sknp => simp [encodeWord, decodeWord, decodeGroupE]
  | ldVDT | ldVK | ldDTV | ldSTV | addIV | ldFV | ldBV | ldMV | ldVM => simp [encodeWord, decodeWord, decodeGroupF]
  | _ => simp [encodeWord, decodeWord]

/-- Settles O3: the two bytes of an encoding are put together to its word, which decodes to the instruction. -/
theorem decodeEncodeRoundTrip : Obligations.DecodeEncodeRoundTrip := by
  unfold Obligations.DecodeEncodeRoundTrip
  intro i rest h
  show decode (highByte (encodeWord i) :: lowByte (encodeWord i) :: rest) = .ok (i, rest)
  rw [decode, opcodeOf_high_low, decodeWord_encodeWord h]

/-! ### Encoding what was decoded (R61) -/

/-- What a group of the opcode map answers for w, if it answers an instruction, has the word w. -/
def Reencodes (w : Word) (r : Except DecodeError Instr) : Prop :=
  ∀ i, r = .ok i → i.wf = true ∧ encodeWord i = w

theorem reencodes_ok {w : Word} {i : Instr} (hwf : i.wf = true) (he : encodeWord i = w) : Reencodes w (.ok i) := by
  intro j h
  cases h
  exact ⟨hwf, he⟩

theorem reencodes_error (w : Word) (e : DecodeError) : Reencodes w (.error e) := by
  intro j h
  cases h

theorem reencodes_ite {w : Word} {p : Prop} [Decidable p] {r r' : Except DecodeError Instr} (h : p → Reencodes w r)
    (h' : ¬ p → Reencodes w r') : Reencodes w (if p then r else r') := by
  split
  · exact h ‹_›
  · exact h' ‹_›

/-- One row of the opcode map: where its condition holds it answers an instruction whose word is w. -/
theorem reencodes_row {w : Word} {p : Prop} [Decidable p] {i : Instr} {r : Except DecodeError Instr}
    (hwf : i.wf = true) (he : p → encodeWord i = w) (hr : Reencodes w r) : Reencodes w (if p then .ok i else r) :=
  reencodes_ite (fun h => reencodes_ok hwf (he h)) fun _ => hr

theorem reencodes_group0 {w : Word} (hd : fieldD1 w = 0x0) : Reencodes w (.ok (decodeGroup0 w)) := by
  unfold decodeGroup0
  split
  · exact reencodes_ok rfl (Eq.symm ‹_›)
  split
  · exact reencodes_ok rfl (Eq.symm ‹_›)
  have hw : wordOfNNN 0x0 (fieldNNN w) = w := wordOfNNN_fields hd
  have hcls : fieldNNN w ≠ 0x0E0 := fun h => ‹¬w = 0x00E0› (by rw [← hw, h]; rfl)
  have hret : fieldNNN w ≠ 0x0EE := fun h => ‹¬w = 0x00EE› (by rw [← hw, h]; rfl)
  exact reencodes_ok ((wf_sys_iff _).mpr ⟨hcls, hret⟩) hw

theorem reencodes_group8 {w : Word} (hd : fieldD1 w = 0x8) : Reencodes w (decodeGroup8 w) := by
  unfold decodeGroup8
  repeat refine reencodes_row rfl (wordOfNibbles_fields hd) ?_
  exact reencodes_error w _

theorem reencodes_groupE {w : Word} (hd : fieldD1 w = 0xE) : Reencodes w (decodeGroupE w) := by
  unfold decodeGroupE
  repeat refine reencodes_row rfl (wordOfXKK_fields hd) ?_
  exact reencodes_error w _

theorem reencodes_groupF {w : Word} (hd : fieldD1 w = 0xF) : Reencodes w (decodeGroupF w) := by
  unfold decodeGroupF
  repeat refine reencodes_row rfl (wordOfXKK_fields hd) ?_
  exact reencodes_error w _

/-- Row by row of the opcode map; the last branch is that of the one value of d1 left, F. -/
theorem decodeWord_reencodes (w : Word) : Reencodes w (decodeWord w) := by
  unfold decodeWord
  refine reencodes_ite reencodes_group0 fun h0 => ?_
  refine reencodes_ite (fun h => reencodes_ok rfl (wordOfNNN_fields h)) fun h1 => ?_
  refine reencodes_ite (fun h => reencodes_ok rfl (wordOfNNN_fields h)) fun h2 => ?_
  refine reencodes_ite (fun h => reencodes_ok rfl (wordOfXKK_fields h rfl)) fun h3 => ?_
  refine reencodes_ite (fun h => reencodes_ok rfl (wordOfXKK_fields h rfl)) fun h4 => ?_
  refine reencodes_ite (fun h => reencodes_row rfl (wordOfNibbles_fields h) (reencodes_error w _)) fun h5 => ?_
  refine reencodes_ite (fun h => reencodes_ok rfl (wordOfXKK_fields h rfl)) fun h6 => ?_
  refine reencodes_ite (fun h => reencodes_ok rfl (wordOfXKK_fields h rfl)) fun h7 => ?_
  refine reencodes_ite reencodes_group8 fun h8 => ?_
  refine reencodes_ite (fun h => reencodes_row rfl (wordOfNibbles_fields h) (reencodes_error w _)) fun h9 => ?_
  refine reencodes_ite (fun h => reencodes_ok rfl (wordOfNNN_fields h)) fun hA => ?_
  refine reencodes_ite (fun h => reencodes_ok rfl (wordOfNNN_fields h)) fun hB => ?_
  refine reencodes_ite (fun h => reencodes_ok rfl (wordOfXKK_fields h rfl)) fun hC => ?_
  refine reencodes_ite (fun h => reencodes_ok rfl (wordOfNibbles_fields h rfl)) fun hD => ?_
  refine reencodes_ite reencodes_groupE fun hE => ?_
  exact reencodes_groupF (by bv_omega)

/-- Settles O4, by the rows of the opcode map. -/
theorem decodedWordReencodes : Obligations.DecodedWordReencodes := by
  unfold Obligations.DecodedWordReencodes
  exact decodeWord_reencodes

/-! ### The words that do not decode (R62) -/

/-- A chain of rows answers an error where no row's condition holds. -/
theorem ite_ok_eq_error_iff {p : Prop} [Decidable p] {i : Instr} {r : Except DecodeError Instr} {e : DecodeError} :
    (if p then .ok i else r) = .error e ↔ ¬ p ∧ r = .error e := by
  by_cases h : p <;> simp [h]

theorem decodeGroup8_eq_error_iff (w : Word) : decodeGroup8 w = .error (.unknownOpcode w) ↔
    w.toNat % 16 ∈ [0x8, 0x9, 0xA, 0xB, 0xC, 0xD, 0xF] := by
  rw [← fieldN_val]
  simp only [decodeGroup8, ite_ok_eq_error_iff]
  generalize fieldN w = n
  revert n
  decide

theorem decodeGroupE_eq_error_iff (w : Word) : decodeGroupE w = .error (.unknownOpcode w) ↔
    w.toNat % 256 ∉ [0x9E, 0xA1] := by
  rw [← fieldKK_toNat]
  simp [decodeGroupE, ite_ok_eq_error_iff, ← BitVec.toNat_inj]

theorem decodeGroupF_eq_error_iff (w : Word) : decodeGroupF w = .error (.unknownOpcode w) ↔
    w.toNat % 256 ∉ [0x07, 0x0A, 0x15, 0x18, 0x1E, 0x29, 0x33, 0x55, 0x65] := by
  rw [← fieldKK_toNat]
  simp [decodeGroupF, ite_ok_eq_error_iff, ← BitVec.toNat_inj]

theorem decodeWord_of_group59 {w : Word} (h : fieldD1 w = 0x5 ∨ fieldD1 w = 0x9) :
    decodeWord w = .error (.unknownOpcode w) ↔ w.toNat % 16 ≠ 0 := by
  have hn : fieldN w = 0 ↔ w.toNat % 16 = 0 := by rw [← fieldN_val, Fin.ext_iff]; rfl
  rcases h with h | h <;> simp [decodeWord, h, hn]

theorem decodeWord_of_group8 {w : Word} (h : fieldD1 w = 0x8) : decodeWord w = decodeGroup8 w := by
  simp [decodeWord, h]

theorem decodeWord_of_groupE {w : Word} (h : fieldD1 w = 0xE) : decodeWord w = decodeGroupE w := by
  simp [decodeWord, h]

theorem decodeWord_of_groupF {w : Word} (h : fieldD1 w = 0xF) : decodeWord w = decodeGroupF w := by
  simp [decodeWord, h]

/-- In every other group each word is an instruction. -/
theorem decodeWord_ne_error {w : Word} (h59 : ¬ (fieldD1 w = 0x5 ∨ fieldD1 w = 0x9)) (h8 : fieldD1 w ≠ 0x8)
    (hE : fieldD1 w ≠ 0xE) (hF : fieldD1 w ≠ 0xF) (e : DecodeError) : decodeWord w ≠ .error e := by
  obtain ⟨h5, h9⟩ := not_or.mp h59
  simp only [decodeWord, if_neg h5, if_neg h8, if_neg h9, if_neg hE, ne_eq, ite_ok_eq_error_iff]
  rintro ⟨h0, h1, h2, h3, h4, h6, h7, hA, hB, hC, hD, -⟩
  bv_omega

theorem fieldD1_eq_iff (w : Word) (d : BitVec 4) : fieldD1 w = d ↔ w.toNat / 4096 = d.toNat := by
  rw [← fieldD1_toNat_eq_div, BitVec.toNat_inj]

/-- Settles O5, group by group: only the groups 5, 8, 9, E and F have unknown words. -/
theorem unknownOpcodesExactly : Obligations.UnknownOpcodesExactly := by
  unfold Obligations.UnknownOpcodesExactly
  intro w
  have hd : ∀ d : BitVec 4, fieldD1 w = d ↔ w.toNat / 4096 = d.toNat := fieldD1_eq_iff w
  by_cases h59 : fieldD1 w = 0x5 ∨ fieldD1 w = 0x9
  · rw [decodeWord_of_group59 h59]
    simp only [hd, BitVec.reduceToNat] at h59
    omega
  by_cases h8 : fieldD1 w = 0x8
  · rw [decodeWord_of_group8 h8, decodeGroup8_eq_error_iff]
    simp [(hd _).mp h8]
  by_cases hE : fieldD1 w = 0xE
  · rw [decodeWord_of_groupE hE, decodeGroupE_eq_error_iff]
    simp [(hd _).mp hE]
  by_cases hF : fieldD1 w = 0xF
  · rw [decodeWord_of_groupF hF, decodeGroupF_eq_error_iff]
    simp [(hd _).mp hF]
  · have hne := decodeWord_ne_error h59 h8 hE hF (.unknownOpcode w)
    simp only [hd, BitVec.reduceToNat] at h59 h8 hE hF
    simp [hne, h8, hE, hF, not_or.mp h59]

/-- Settles O2, by running the decoder. -/
theorem sampleWordsDecode : Obligations.SampleWordsDecode := by
  unfold Obligations.SampleWordsDecode
  exact ⟨rfl, rfl, rfl, rfl, rfl, rfl, rfl, rfl, rfl, rfl, rfl, rfl, rfl, rfl⟩

end Sys2Proof

namespace Sys2Proof.Machine

/-! ### An instruction placed in memory (log 10) -/

theorem tableWord_toNat (w : Word) : tableWord 16 w.toNat = w := by
  apply BitVec.eq_of_toNat_eq
  simpa [tableWord] using w.isLt

/-- Two bytes stored at pc are the word that is fetched there. -/
theorem fetch_storeRun_word {s : State} (hm : Memory.wf s.cfg s.mem = true) (hp : s.pc.toNat < 0xFFF) (w : Word) :
    (s.storeRun s.pc.toNat [highByte w, lowByte w]).fetch = some w := by
  have hrange : s.pc.toNat + [highByte w, lowByte w].length ≤ 4096 := by simp; omega
  rw [fetch_of_lt (s := s.storeRun _ _) hp]
  simp [State.byteAt_storeRun hm hrange]

theorem nextInstr_of_decodeWord {s : State} {w : Word} {i : Instr} (hf : s.fetch = some w)
    (hd : decodeWord w = .ok i) : s.nextInstr = some i := by
  unfold State.nextInstr
  rw [hf]
  simp [hd, Except.toOption]

/-- The address where withFetchWord places a word: one that can be fetched from. -/
theorem setPc_fetchable (s : State) :
    ∃ a : Word, a.toNat < 0xFFF ∧ (if s.pc.toNat < 0xFFF then s else s.setPc 0x200) = s.setPc a := by
  by_cases hp : s.pc.toNat < 0xFFF
  · exact ⟨s.pc, hp, if_pos hp⟩
  · exact ⟨0x200, by decide, if_neg hp⟩

/-- Settles O8: the word placed is fetched, and decodes to the instruction whose word it is. -/
theorem placedInstructionIsNext : Obligations.PlacedInstructionIsNext := by
  unfold Obligations.PlacedInstructionIsNext
  intro s i hm hi
  obtain ⟨a, ha, e⟩ := setPc_fetchable s
  simp only [State.withFetchWord, e, tableWord_toNat]
  have hf := fetch_storeRun_word (s := (s.setPc a).setMode .running) hm ha (encodeWord i)
  exact ⟨rfl, nextInstr_of_decodeWord hf (decodeWord_encodeWord hi)⟩

end Sys2Proof.Machine
end

section
/-! PROOF. What an instruction does to the parts of the state, said once for all 35: when it takes a fault (R46, R80, R82), and
which parts it may write when it takes none. Frames of single instructions and rules about all of them are read off this. -/

namespace Sys2Proof.Machine

/-! ### Frames of the updates -/

theorem UnchangedExcept.then_trans {may may' : Component → Prop} {s t u : State} (hst : UnchangedExcept may s t)
    (htu : UnchangedExcept may' t u) : UnchangedExcept (fun c => may c ∨ may' c) s u :=
  (hst.mono fun _ => Or.inl).trans (htu.mono fun _ => Or.inr)

/-- Any update, followed by a write of pc. -/
theorem UnchangedExcept.then_setPc {may : Component → Prop} {s t : State} (h : UnchangedExcept may s t) (a : Word) :
    UnchangedExcept (fun c => c = .pc ∨ may c) s (t.setPc a) :=
  (h.then_trans (unchangedExcept_setPc t a)).mono fun _ => Or.symm

/-- Any update, followed by the move of pc to the next instruction. -/
theorem UnchangedExcept.then_advance {may : Component → Prop} {s t : State} (h : UnchangedExcept may s t) :
    UnchangedExcept (fun c => c = .pc ∨ may c) s t.advance :=
  h.then_setPc t.pcNext

theorem unchangedExcept_setMode (s : State) (m : Mode) : UnchangedExcept (fun c => c = .mode) s (s.setMode m) := by
  intro c hc
  cases c with
  | mode => exact absurd rfl hc
  | _ => rfl

theorem unchangedExcept_setFB (s : State) (fb : Frame) :
    UnchangedExcept (fun c => c = .dirty ∨ ∃ x y, c = .pixel x y) s (s.setFB fb) := by
  intro c hc
  cases c with
  | dirty => exact absurd (.inl rfl) hc
  | pixel x y => exact absurd (.inr ⟨x, y, rfl⟩) hc
  | _ => rfl

theorem unchangedExcept_drawn (s : State) : UnchangedExcept (fun c => c = .randIn ∨ c = .draws) s s.drawn := by
  intro c hc
  cases c with
  | randIn => exact absurd (.inl rfl) hc
  | draws => exact absurd (.inr rfl) hc
  | _ => rfl

theorem unchangedExcept_countInstr (s : State) : UnchangedExcept (fun c => c = .debugCount) s s.countInstr := by
  intro c hc
  cases c with
  | debugCount => exact absurd rfl hc
  | _ => simp [Component.same]

theorem unchangedExcept_storeRun (s : State) {a len : Nat} {bs : List Byte} (hlen : bs.length = len) :
    UnchangedExcept (fun c => ∃ b, c = .mem b ∧ a ≤ b ∧ b < a + len) s (s.storeRun a bs) := by
  intro c hc
  cases c with
  | mem b =>
    have hout : b < a ∨ a + bs.length ≤ b := by
      by_contra hin
      exact hc ⟨b, rfl, by omega, by omega⟩
    exact State.byteAt_storeRun_outside s bs hout
  | _ => rfl

theorem unchangedExcept_regsLoaded (s : State) (x : Reg) :
    UnchangedExcept (fun c => ∃ r, c = .reg r ∧ r ≤ x) s (s.setAllV (regsLoaded s x)) := by
  intro c hc
  cases c with
  | reg r => exact (regsLoaded_getV s x r).trans (if_neg fun hr => hc ⟨r, rfl, hr⟩)
  | _ => rfl

/-- The two write orders of VF have the same frame (R89). -/
theorem unchangedExcept_resultThenFlag (s : State) (x : Reg) (result flag : Byte) :
    UnchangedExcept (fun c => c = .reg x ∨ c = .reg 15) s (resultThenFlag s x result flag) :=
  (unchangedExcept_setV s x result).then_trans (unchangedExcept_setV _ VF flag)

theorem unchangedExcept_flagThenResult (s : State) (x : Reg) (flag result : Byte) :
    UnchangedExcept (fun c => c = .reg x ∨ c = .reg 15) s (flagThenResult s x flag result) :=
  ((unchangedExcept_setV s VF flag).then_trans (unchangedExcept_setV _ x result)).mono fun _ => Or.symm

/-! ### When an instruction takes a fault -/

/-- The instruction meets the fatal error: the column "raised by" of R118, for what executes at pc. -/
def Faults (i : Instr) (s : State) : Fault → Prop
  | .stackOverflow => (∃ nnn, i = .call nnn) ∧ 16 ≤ s.stack.length
  | .stackUnderflow => i = .ret ∧ s.stack = []
  | .fetchOutOfBounds => False
  | .memoryOutOfBounds => 0 < (dataRange i s).2 ∧ 4096 < (dataRange i s).1 + (dataRange i s).2

theorem exec_of_faults {i : Instr} {s : State} {c : Fault} (h : Faults i s c) : exec i s = .next (s.takeFault c) := by
  cases c with
  | stackOverflow =>
    obtain ⟨⟨nnn, rfl⟩, hfull⟩ := h
    exact exec_call_of_full nnn hfull
  | stackUnderflow =>
    obtain ⟨rfl, hnil⟩ := h
    exact exec_ret_of_nil hnil
  | fetchOutOfBounds => exact h.elim
  | memoryOutOfBounds =>
    obtain ⟨hlen, hout⟩ := h
    cases i with
    | ldBV x => exact ((exec_ldBV_cases s x).resolve_left fun h => absurd h.1 (Nat.not_le_of_lt hout)).2
    | ldMV x => exact ((exec_ldMV_cases s x).resolve_left fun h => absurd h.1 (Nat.not_le_of_lt hout)).2
    | ldVM x => exact ((exec_ldVM_cases s x).resolve_left fun h => absurd h.1 (Nat.not_le_of_lt hout)).2
    | drw x y n =>
      refine ((exec_drw_cases s x y n).resolve_left fun h => ?_).2
      exact h.1.elim (Nat.ne_of_gt hlen) (Nat.not_le_of_lt hout)
    | _ => exact absurd hlen (Nat.lt_irrefl 0)

/-! ### Accesses inside memory -/

theorem decimalDigits_length (a : Byte) : (decimalDigits a).length = 3 := rfl

theorem exec_ldBV_of_le {s : State} (x : Reg) (h : s.I.toNat + 3 ≤ 4096) :
    exec (.ldBV x) s = .next (s.storeRun s.I.toNat (decimalDigits (s.getV x))).advance :=
  ((exec_ldBV_cases s x).resolve_right fun h' => absurd h'.1 (Nat.not_lt_of_le h)).2

theorem exec_ldMV_of_le {s : State} {x : Reg} (h : s.I.toNat + (x.val + 1) ≤ 4096) :
    exec (.ldMV x) s = .next ((s.storeRun s.I.toNat (regsUpTo s x)).setI (indexAfterBlock s x)).advance :=
  ((exec_ldMV_cases s x).resolve_right fun h' => absurd h'.1 (Nat.not_lt_of_le h)).2

theorem exec_ldVM_of_le {s : State} {x : Reg} (h : s.I.toNat + (x.val + 1) ≤ 4096) :
    exec (.ldVM x) s = .next ((s.setAllV (regsLoaded s x)).setI (indexAfterBlock s x)).advance :=
  ((exec_ldVM_cases s x).resolve_right fun h' => absurd h'.1 (Nat.not_lt_of_le h)).2

theorem exec_drw_of_le {s : State} (x y : Reg) {n : Fin 16} (h : n.val = 0 ∨ s.I.toNat + n.val ≤ 4096) :
    exec (.drw x y n) s =
      .next ((s.setFB (drawnCanvas s x y n).fb).setV VF (collisionFlag (drawnCanvas s x y n).erased)).advance :=
  ((exec_drw_cases s x y n).resolve_right fun h' => by omega).2

/-! ### What an instruction may write -/

/-- The parts besides pc that the instruction may write where it takes no fault, from the rules R79 to R117. -/
def Writes (s : State) : Instr → Component → Prop
  | .sys _, _ | .jp _, _ | .jpV0 _, _ | .seVB _ _, _ | .sneVB _ _, _ | .seVV _ _, _ | .sneVV _ _, _ | .skp _, _
  | .sknp _, _ => False
  | .ret, c | .call _, c => c = .stack
  | .cls, c => c = .dirty ∨ ∃ x y, c = .pixel x y
  | .drw _ _ _, c => (c = .dirty ∨ ∃ x y, c = .pixel x y) ∨ c = .reg 15
  | .ldVB x _, c | .addVB x _, c | .ldVV x _, c | .orVV x _, c | .andVV x _, c | .xorVV x _, c | .ldVDT x, c => c = .reg x
  | .rnd x _, c => (c = .randIn ∨ c = .draws) ∨ c = .reg x
  | .addVV x _, c | .subVV x _, c | .shr x _, c | .subn x _, c | .shl x _, c => c = .reg x ∨ c = .reg 15
  | .ldIA _, c | .addIV _, c | .ldFV _, c => c = .index
  | .ldDTV _, c => c = .delayTimer
  | .ldSTV _, c => c = .soundTimer
  | .ldVK _, c => c = .mode
  | .ldBV _, c => ∃ a, c = .mem a ∧ indexAddr s ≤ a ∧ a < indexAddr s + 3
  | .ldMV x, c => (∃ a, c = .mem a ∧ indexAddr s ≤ a ∧ a < indexAddr s + (x.val + 1)) ∨ c = .index
  | .ldVM x, c => (∃ r, c = .reg r ∧ r ≤ x) ∨ c = .index

/-- An instruction that only sets pc. -/
theorem unchangedExcept_setPc_of_any (s : State) (a : Word) (may : Component → Prop) :
    UnchangedExcept (fun c => c = .pc ∨ may c) s (s.setPc a) :=
  (unchangedExcept_setPc s a).mono fun _ => Or.inl

theorem exec_of_not_faults {i : Instr} {s : State} (h : ∀ c, ¬ Faults i s c) :
    ∃ t, exec i s = .next t ∧ UnchangedExcept (fun c => c = .pc ∨ Writes s i c) s t := by
  cases i with
  | sys | jp | jpV0 => exact ⟨_, rfl, unchangedExcept_setPc_of_any s _ _⟩
  | seVB x kk => exact ⟨_, exec_seVB s x kk, unchangedExcept_setPc_of_any s _ _⟩
  | sneVB x kk => exact ⟨_, exec_sneVB s x kk, unchangedExcept_setPc_of_any s _ _⟩
  | seVV x y => exact ⟨_, exec_seVV s x y, unchangedExcept_setPc_of_any s _ _⟩
  | sneVV x y => exact ⟨_, exec_sneVV s x y, unchangedExcept_setPc_of_any s _ _⟩
  | skp x => exact ⟨_, exec_skp s x, unchangedExcept_setPc_of_any s _ _⟩
  | sknp x => exact ⟨_, exec_sknp s x, unchangedExcept_setPc_of_any s _ _⟩
  | call nnn =>
    have hroom : s.stack.length < 16 := Nat.lt_of_not_le fun hfull => h .stackOverflow ⟨⟨nnn, rfl⟩, hfull⟩
    exact ⟨_, exec_call_of_lt nnn hroom, (unchangedExcept_setStack s _).then_setPc _⟩
  | ret =>
    obtain ⟨v, st, hst⟩ := List.exists_cons_of_ne_nil fun hnil => h .stackUnderflow ⟨rfl, hnil⟩
    exact ⟨_, exec_ret_of_cons hst, (unchangedExcept_setStack s _).then_setPc _⟩
  | cls => exact ⟨_, rfl, (unchangedExcept_setFB s _).then_advance⟩
  | ldVB | addVB | ldVV | orVV | andVV | xorVV | ldVDT => exact ⟨_, rfl, (unchangedExcept_setV s _ _).then_advance⟩
  | rnd => exact ⟨_, rfl, ((unchangedExcept_drawn s).then_trans (unchangedExcept_setV _ _ _)).then_advance⟩
  | addVV => exact ⟨_, rfl, (unchangedExcept_resultThenFlag s _ _ _).then_advance⟩
  | subVV | shr | subn | shl => exact ⟨_, rfl, (unchangedExcept_flagThenResult s _ _ _).then_advance⟩
  | ldIA | addIV | ldFV => exact ⟨_, rfl, (unchangedExcept_setI s _).then_advance⟩
  | ldDTV => exact ⟨_, rfl, (unchangedExcept_setDT s _).then_advance⟩
  | ldSTV => exact ⟨_, rfl, (unchangedExcept_setST s _).then_advance⟩
  | ldVK x => exact ⟨_, exec_ldVK s x, (unchangedExcept_setMode s _).mono fun _ => Or.inr⟩
  | ldBV x =>
    have hin : s.I.toNat + 3 ≤ 4096 := Nat.le_of_not_lt fun hout => h .memoryOutOfBounds ⟨Nat.succ_pos _, hout⟩
    exact ⟨_, exec_ldBV_of_le x hin, (unchangedExcept_storeRun s (decimalDigits_length (s.getV x))).then_advance⟩
  | ldMV x =>
    have hin : s.I.toNat + (x.val + 1) ≤ 4096 :=
      Nat.le_of_not_lt fun hout => h .memoryOutOfBounds ⟨Nat.succ_pos _, hout⟩
    exact ⟨_, exec_ldMV_of_le hin, ((unchangedExcept_storeRun s (regsUpTo_length s x)).then_trans
      (unchangedExcept_setI _ _)).then_advance⟩
  | ldVM x =>
    have hin : s.I.toNat + (x.val + 1) ≤ 4096 :=
      Nat.le_of_not_lt fun hout => h .memoryOutOfBounds ⟨Nat.succ_pos _, hout⟩
    exact ⟨_, exec_ldVM_of_le hin, ((unchangedExcept_regsLoaded s x).then_trans
      (unchangedExcept_setI _ _)).then_advance⟩
  | drw x y n =>
    have hin : n.val = 0 ∨ s.I.toNat + n.val ≤ 4096 := by
      by_contra hc
      exact h .memoryOutOfBounds ⟨show 0 < n.val by omega, show 4096 < s.I.toNat + n.val by omega⟩
    exact ⟨_, exec_drw_of_le x y hin, ((unchangedExcept_setFB s _).then_trans
      (unchangedExcept_setV _ _ _)).then_advance⟩

/-- What exec answers: a fault taken in the state before, or a state that differs from it only where the instruction may
write. -/
theorem exec_outcome {i : Instr} {s t : State} (h : exec i s = .next t) :
    (∃ c, Faults i s c ∧ t = s.takeFault c) ∨
      ((∀ c, ¬ Faults i s c) ∧ UnchangedExcept (fun c => c = .pc ∨ Writes s i c) s t) := by
  by_cases hf : ∃ c, Faults i s c
  · obtain ⟨c, hc⟩ := hf
    cases (exec_of_faults hc).symm.trans h
    exact .inl ⟨c, hc, rfl⟩
  · have hf' := not_exists.mp hf
    obtain ⟨u, e, hu⟩ := exec_of_not_faults hf'
    cases e.symm.trans h
    exact .inr ⟨hf', hu⟩

/-- A part that is neither pc nor the mode changes only where the instruction may write it. -/
theorem exec_same {i : Instr} {s t : State} {c : Component} (h : exec i s = .next t) (hpc : c ≠ .pc) (hmode : c ≠ .mode)
    (hw : ¬ Writes s i c) : c.same s t := by
  rcases exec_outcome h with ⟨f, _, rfl⟩ | ⟨_, hframe⟩
  · exact unchangedExcept_setMode s _ c hmode
  · exact hframe c (by simp [hpc, hw])

end Sys2Proof.Machine
end

section
/-! PROOF. Rules about every step (R27, R29 to R32, R42, R54): a step that runs no instruction moves at most pc, the mode, the
debug counter and a register; so whatever else changes, an instruction that may write it was at pc. -/

namespace Sys2Proof.Machine

/-- Settles O14: outside mode Faulted nothing answers anything but a next state. -/
theorem everyInstructionAnswersNextState : Obligations.EveryInstructionAnswersNextState := by
  unfold Obligations.EveryInstructionAnswersNextState
  exact ⟨exec_answers_next, fun _ h => step_answers_next h⟩

/-! ### A step runs an instruction, or leaves most of the state alone -/

theorem unchangedExcept_awaitStep (s : State) (x : Reg) (base : Word) :
    UnchangedExcept (fun c => c = .mode ∨ c = .pc ∨ c = .reg x) s (awaitStep x base s) := by
  rcases awaitStep_cases x base s with ⟨_, e⟩ | ⟨k, _, e⟩
  · rw [e]
    exact (unchangedExcept_setMode s _).mono fun _ => Or.inl
  · rw [e]
    exact (((unchangedExcept_setV s x _).then_setPc _).then_trans (unchangedExcept_setMode _ _)).mono fun _ => Or.symm

/-- The parts that a step may change without running an instruction. -/
def IdleWrites (c : Component) : Prop := c = .mode ∨ c = .pc ∨ c = .debugCount ∨ ∃ r, c = .reg r

theorem step_idle_or_runs {s t : State} (h : step s = .next t) :
    UnchangedExcept IdleWrites s t ∨ ∃ i u, s.nextInstr = some i ∧ exec i s = .next u ∧ t = u.countInstr := by
  rcases step_cases h with ⟨x, base, _, rfl⟩ | ⟨_, _, rfl⟩ | ⟨_, _, _, rfl⟩ | ⟨i, _, _, hn, hr⟩
  · refine .inl ((unchangedExcept_awaitStep s x base).mono fun c hc => ?_)
    exact hc.imp_right (Or.imp_right fun hx => .inr ⟨x, hx⟩)
  · exact .inl ((unchangedExcept_setMode s _).mono fun _ => Or.inl)
  · refine .inl (((unchangedExcept_setPc s s.pcNext).then_trans (unchangedExcept_countInstr s.advance)).mono fun c hc => ?_)
    exact .inr (hc.imp_right .inl)
  · obtain ⟨u, e, rfl⟩ := retire_cases hr
    exact .inr ⟨i, u, hn, e, rfl⟩

/-! ### The stack (R27) -/

theorem exec_stack {i : Instr} {s t : State} (h : exec i s = .next t) (hne : t.stack ≠ s.stack) :
    (∃ nnn, i = .call nnn ∧ s.stack.length < 16 ∧ t = (s.setStack ((s.pc + 2) :: s.stack)).setPc (addrOf nnn)) ∨
      (i = .ret ∧ ∃ v st, s.stack = v :: st ∧ t = (s.setStack st).setPc v) := by
  cases i with
  | call nnn =>
    rcases exec_call_cases s nnn with ⟨hroom, e⟩ | ⟨_, e⟩ <;> cases e.symm.trans h
    · exact .inl ⟨nnn, rfl, hroom, rfl⟩
    · exact absurd rfl hne
  | ret =>
    rcases exec_ret_cases s with ⟨_, e⟩ | ⟨v, st, hst, e⟩ <;> cases e.symm.trans h
    · exact absurd rfl hne
    · exact .inr ⟨rfl, v, st, hst, rfl⟩
  | _ => exact absurd (exec_same (c := .stack) h (by simp) (by simp) (by simp [Writes])) hne

/-- Settles O22: an idle step keeps the stack, and of the instructions only CALL and RET write it. -/
theorem stackChangesOnlyByCallAndRet : Obligations.StackChangesOnlyByCallAndRet := by
  unfold Obligations.StackChangesOnlyByCallAndRet
  intro s t h hne
  rcases step_idle_or_runs h with hidle | ⟨i, u, hn, e, rfl⟩
  · exact absurd (hidle .stack (by simp [IdleWrites])) hne
  · rw [State.countInstr_stack] at hne ⊢
    rcases exec_stack e hne with ⟨nnn, rfl, _, rfl⟩ | ⟨rfl, v, st, hst, rfl⟩
    · exact .inl ⟨⟨nnn, hn⟩, rfl⟩
    · exact .inr ⟨hn, v, hst⟩

/-! ### The timers (R29) -/

theorem exec_delayTimer {i : Instr} {s t : State} (h : exec i s = .next t) :
    t.DT = s.DT ∨ ∃ x, i = .ldDTV x ∧ t.DT = s.getV x := by
  cases i with
  | ldDTV x =>
    cases h
    exact .inr ⟨x, rfl, rfl⟩
  | _ => exact .inl (exec_same (c := .delayTimer) h (by simp) (by simp) (by simp [Writes]))

theorem exec_soundTimer {i : Instr} {s t : State} (h : exec i s = .next t) :
    t.ST = s.ST ∨ ∃ x, i = .ldSTV x ∧ t.ST = s.getV x := by
  cases i with
  | ldSTV x =>
    cases h
    exact .inr ⟨x, rfl, rfl⟩
  | _ => exact .inl (exec_same (c := .soundTimer) h (by simp) (by simp) (by simp [Writes]))

theorem step_timers {s t : State} (h : step s = .next t) :
    (t.DT = s.DT ∨ ∃ x, s.nextInstr = some (.ldDTV x) ∧ t.DT = s.getV x) ∧
      (t.ST = s.ST ∨ ∃ x, s.nextInstr = some (.ldSTV x) ∧ t.ST = s.getV x) := by
  rcases step_idle_or_runs h with hidle | ⟨i, u, hn, e, rfl⟩
  · exact ⟨.inl (hidle .delayTimer (by simp [IdleWrites])), .inl (hidle .soundTimer (by simp [IdleWrites]))⟩
  · rw [State.countInstr_DT, State.countInstr_ST, hn]
    simp only [Option.some.injEq]
    exact ⟨exec_delayTimer e, exec_soundTimer e⟩

/-! ### The frame, the keys, the configuration (R12, R30, R31, R32) -/

/-- CLS and DRW. -/
def IsDisplay (i : Instr) : Prop := i = .cls ∨ ∃ x y n, i = .drw x y n

theorem isDisplay_of_writes_frame {i : Instr} {s : State} {c : Component} (hc : c = .dirty ∨ ∃ x y, c = .pixel x y)
    (hw : Writes s i c) : IsDisplay i := by
  cases i with
  | cls => exact .inl rfl
  | drw x y n => exact .inr ⟨x, y, n, rfl⟩
  | _ => rcases hc with rfl | ⟨x, y, rfl⟩ <;> simp [Writes] at hw

/-- No instruction clears the dirty flag. -/
theorem exec_dirty {i : Instr} {s t : State} (h : exec i s = .next t) (hd : s.dirty = true) : t.dirty = true := by
  cases i with
  | cls => cases h; rfl
  | drw x y n =>
    rcases exec_drw_cases s x y n with ⟨_, e⟩ | ⟨_, e⟩ <;> cases e.symm.trans h
    · rfl
    · exact hd
  | _ => exact (exec_same (c := .dirty) h (by simp) (by simp) (by simp [Writes])).trans hd

theorem exec_keys {i : Instr} {s t : State} (h : exec i s = .next t) : t.KEY = s.KEY :=
  exec_same (c := .keys) h (by simp) (by simp) (by cases i <;> simp [Writes])

theorem exec_cfg {i : Instr} {s t : State} (h : exec i s = .next t) : t.cfg = s.cfg :=
  exec_same (c := .config) h (by simp) (by simp) (by cases i <;> simp [Writes])

/-- Settles O24: an idle step keeps all of it, and of the instructions only the two of the display write the frame. -/
theorem framebufferWrittenOnlyByDisplay : Obligations.FramebufferWrittenOnlyByDisplay := by
  unfold Obligations.FramebufferWrittenOnlyByDisplay
  intro s t h
  rcases step_idle_or_runs h with hidle | ⟨i, u, hn, e, rfl⟩
  · have hdirty : t.dirty = s.dirty := hidle .dirty (by simp [IdleWrites])
    refine ⟨fun hchanged => ?_, hdirty.trans, hidle .keys (by simp [IdleWrites]), hidle .config (by simp [IdleWrites])⟩
    rcases hchanged with ⟨x, y, hp⟩ | hd
    · exact absurd (hidle (.pixel x y) (by simp [IdleWrites])) hp
    · exact absurd hdirty hd
  · simp only [State.countInstr_pixel, State.countInstr_dirty, State.countInstr_KEY, State.countInstr_cfg]
    refine ⟨fun hchanged => ?_, exec_dirty e, exec_keys e, exec_cfg e⟩
    have hdisplay : IsDisplay i := by
      rcases hchanged with ⟨x, y, hp⟩ | hd
      · by_contra hi
        exact hp (exec_same (c := .pixel x y) e (by simp) (by simp)
          fun hw => hi (isDisplay_of_writes_frame (.inr ⟨x, y, rfl⟩) hw))
      · by_contra hi
        exact hd (exec_same (c := .dirty) e (by simp) (by simp)
          fun hw => hi (isDisplay_of_writes_frame (.inl rfl) hw))
    simpa [hn, IsDisplay] using hdisplay

/-! ### Memory (R42, R54) -/

theorem exec_byteAt {i : Instr} {s t : State} {a : Nat} (h : exec i s = .next t) (hne : t.byteAt a ≠ s.byteAt a) :
    (∃ x, i = .ldBV x ∧ s.I.toNat ≤ a ∧ a < s.I.toNat + 3) ∨
      (∃ x : Reg, i = .ldMV x ∧ s.I.toNat ≤ a ∧ a ≤ s.I.toNat + x.val) := by
  have hw : Writes s i (.mem a) := by
    by_contra hw
    exact hne (exec_same (c := .mem a) h (by simp) (by simp) hw)
  cases i with
  | ldBV x =>
    obtain ⟨b, hb, hlo, hhi⟩ := hw
    cases hb
    exact .inl ⟨x, rfl, hlo, hhi⟩
  | ldMV x =>
    obtain ⟨b, hb, hlo, hhi⟩ | hb := hw <;> cases hb
    exact .inr ⟨x, rfl, hlo, Nat.le_of_lt_succ hhi⟩
  | _ => simp [Writes] at hw

/-- Settles O25: an idle step keeps memory, and of the instructions only the two stores write it. -/
theorem memoryWrittenOnlyByStores : Obligations.MemoryWrittenOnlyByStores := by
  unfold Obligations.MemoryWrittenOnlyByStores
  intro s t a h hne
  rcases step_idle_or_runs h with hidle | ⟨i, u, hn, e, rfl⟩
  · exact absurd (hidle (.mem a) (by simp [IdleWrites])) hne
  · rw [State.countInstr_byteAt] at hne
    simpa [hn] using exec_byteAt e hne

/-! ### VF (R21) -/

/-- Settles O26: the instructions that may write register 15. -/
theorem vfWrittenOnlyAsFlagOrDestination : Obligations.VfWrittenOnlyAsFlagOrDestination := by
  unfold Obligations.VfWrittenOnlyAsFlagOrDestination
  intro i s t h hne
  have hw : Writes s i (.reg 15) := by
    by_contra hw
    exact hne (exec_same (c := .reg 15) h (by simp) (by simp) hw)
  cases i with
  | addVV x y | subVV x y | shr x y | subn x y | shl x y => exact .inl ⟨x, y, by simp⟩
  | drw => exact .inr (.inl ⟨_, _, _, rfl⟩)
  | ldVB x kk | addVB x kk | rnd x kk =>
    obtain rfl : 15 = x := by simpa [Writes] using hw
    exact .inr (.inr (.inl ⟨kk, by simp⟩))
  | ldVV x y | orVV x y | andVV x y | xorVV x y =>
    obtain rfl : 15 = x := by simpa [Writes] using hw
    exact .inr (.inr (.inr (.inl ⟨y, by simp⟩)))
  | ldVDT x =>
    obtain rfl : 15 = x := by simpa [Writes] using hw
    simp
  | ldVM x =>
    have hle : 15 ≤ x := by simpa [Writes] using hw
    obtain rfl : 15 = x := le_antisymm hle (Fin.le_last x)
    simp
  | _ => simp [Writes] at hw

end Sys2Proof.Machine
end

section
/-! PROOF. The fatal errors (R73, R118): a Running step takes a fault exactly where its cause is justified, and then changes the
mode alone. -/

namespace Sys2Proof.Machine

/-! ### Which cause a Running state justifies -/

theorem not_faultJustified_of_no_instr {s : State} {c : Fault} (hp : s.pc.toNat < 0xFFF) (hn : s.nextInstr = none) :
    ¬ FaultJustified s c := by
  cases c with
  | fetchOutOfBounds => exact Nat.not_le_of_lt hp
  | _ => simp [FaultJustified, hn]

/-- Beyond memory there is no instruction, so the fetch is the only cause. -/
theorem faultJustified_iff_of_outOfBounds {s : State} {c : Fault} (hp : 0xFFF ≤ s.pc.toNat) :
    FaultJustified s c ↔ c = .fetchOutOfBounds := by
  have hn : s.nextInstr = none := by
    by_contra h
    obtain ⟨i, hi⟩ := Option.ne_none_iff_exists'.mp h
    exact absurd (nextInstr_lt hi) (Nat.not_lt_of_le hp)
  cases c with
  | fetchOutOfBounds => exact iff_of_true hp rfl
  | _ => simp [FaultJustified, hn]

/-- Where an instruction stands at pc, the causes are those that it meets. -/
theorem faultJustified_iff_faults {s : State} {i : Instr} (hn : s.nextInstr = some i) (hd : s.stack.length ≤ 16)
    (c : Fault) : FaultJustified s c ↔ Faults i s c := by
  cases c with
  | stackOverflow =>
    have hlen : s.stack.length = 16 ↔ 16 ≤ s.stack.length := by omega
    simp [FaultJustified, Faults, hn, hlen, and_comm]
  | stackUnderflow => simp [FaultJustified, Faults, hn, and_comm]
  | fetchOutOfBounds => exact iff_of_false (Nat.not_le_of_lt (nextInstr_lt hn)) id
  | memoryOutOfBounds => simp [FaultJustified, Faults, hn]

/-- An instruction meets at most one fatal error. -/
theorem faults_unique {i : Instr} {s : State} {c c' : Fault} (h : Faults i s c) (h' : Faults i s c') : c = c' := by
  have e : s.takeFault c = s.takeFault c' := Host.Outcome.next.inj ((exec_of_faults h).symm.trans (exec_of_faults h'))
  exact Mode.faulted.inj (congrArg State.mode e)

/-! ### The mode that an instruction leaves -/

/-- Without a fault an instruction leaves the mode as it is, or begins a key wait. -/
theorem exec_mode {i : Instr} {s t : State} (h : exec i s = .next t) (hf : ∀ c, ¬ Faults i s c) :
    t.mode = s.mode ∨ ∃ x, i = .ldVK x ∧ t = s.setMode (.awaitingKey x s.KEY) := by
  rcases exec_outcome h with ⟨c, hc, _⟩ | ⟨_, hframe⟩
  · exact absurd hc (hf c)
  · cases i with
    | ldVK x =>
      cases (exec_ldVK s x).symm.trans h
      exact .inr ⟨x, rfl, rfl⟩
    | _ => exact .inl (hframe .mode (by simp [Writes]))

theorem exec_faulted_iff {i : Instr} {s t : State} (h : exec i s = .next t) (hm : s.mode = .running) (c : Fault) :
    t.mode = .faulted c ↔ Faults i s c := by
  rcases exec_outcome h with ⟨f, hf, rfl⟩ | ⟨hf, _⟩
  · rw [State.takeFault_mode, Mode.faulted.injEq]
    exact ⟨fun e => e ▸ hf, faults_unique hf⟩
  · refine iff_of_false (fun e => ?_) (hf c)
    rcases exec_mode h hf with hs | ⟨x, _, rfl⟩
    · cases (hs.trans hm).symm.trans e
    · cases e

/-- Settles O13, by what stands at pc. -/
theorem faultTakenExactlyWhenJustified : Obligations.FaultTakenExactlyWhenJustified := by
  unfold Obligations.FaultTakenExactlyWhenJustified
  intro s hm hd
  by_cases hp : 0xFFF ≤ s.pc.toNat
  · refine ⟨_, step_of_outOfBounds hm hp, fun c => ?_⟩
    rw [faultJustified_iff_of_outOfBounds hp, State.takeFault_mode, Mode.faulted.injEq, eq_comm]
  have hp' : s.pc.toNat < 0xFFF := Nat.lt_of_not_le hp
  cases hn : s.nextInstr with
  | none =>
    refine ⟨_, step_of_unknown hm hp' hn, fun c => ?_⟩
    exact iff_of_false (by simp [hm]) (not_faultJustified_of_no_instr hp' hn)
  | some i =>
    obtain ⟨u, e⟩ := exec_answers_next i s
    refine ⟨u.countInstr, by rw [step_of_instr hm hn, e, retire_next], fun c => ?_⟩
    rw [faultJustified_iff_faults hn hd, State.countInstr_mode, exec_faulted_iff e hm]

/-- Settles O12: only the fetch and an instruction that meets a fatal error leave the core Faulted, and both take the fault in
the state before. -/
theorem faultsArePrecise : Obligations.FaultsArePrecise := by
  unfold Obligations.FaultsArePrecise
  intro s t c h hc
  rcases step_cases h with ⟨x, base, _, rfl⟩ | ⟨_, _, rfl⟩ | ⟨hm, _, _, rfl⟩ | ⟨i, hm, _, _, hr⟩
  · rcases awaitStep_cases x base s with ⟨_, e⟩ | ⟨k, _, e⟩ <;> rw [e] at hc <;> cases hc
  · cases hc
    rfl
  · rw [State.countInstr_mode] at hc
    cases hm.symm.trans hc
  · obtain ⟨u, e, rfl⟩ := retire_cases hr
    rw [State.countInstr_mode] at hc
    cases e.symm.trans (exec_of_faults ((exec_faulted_iff e hm c).mp hc))
    exact State.countInstr_takeFault s c

/-! ### Single steps: exec of what was decoded, the no-op, the fetch beyond memory, the Faulted core -/

/-- The debug counter after an instruction that took no fault (R78). -/
theorem countInstr_of_enabled {s : State} (hf : ∀ c, s.mode ≠ .faulted c) (hd : s.debugEnabled = true) :
    s.countInstr = { s with debugCount := s.debugCount + 1 } := by
  unfold State.countInstr
  split
  · exact absurd ‹_› (hf _)
  · rw [hd]; rfl
  · rw [hd]; rfl

theorem countInstr_of_disabled {s : State} (hd : s.debugEnabled = false) : s.countInstr = s := by
  unfold State.countInstr
  split
  · rfl
  · rw [hd]; rfl
  · rw [hd]; rfl

theorem countInstr_of_faulted {s : State} {c : Fault} (h : s.mode = .faulted c) : s.countInstr = s := by
  unfold State.countInstr
  rw [h]

/-- Settles O7: the step is the counting of what exec answers. -/
theorem stepRunsDecodedInstruction : Obligations.StepRunsDecodedInstruction := by
  unfold Obligations.StepRunsDecodedInstruction
  intro s t i hm hp hd he
  have hstep : step s = .next t.countInstr := by
    rw [step_of_instr hm (nextInstr_of_decode (by omega) hd), he, retire_next]
  rw [hstep]
  exact ⟨fun hen hf => by rw [countInstr_of_enabled hf hen], fun hdis => by rw [countInstr_of_disabled hdis],
    fun c hc => by rw [countInstr_of_faulted hc]⟩

/-- Settles O9: the no-op of an unknown opcode, by whether debug is enabled. -/
theorem unknownOpcodeIsNoOp : Obligations.UnknownOpcodeIsNoOp := by
  unfold Obligations.UnknownOpcodeIsNoOp
  intro s w hm hp hd
  have hp' : s.pc.toNat < 0xFFF := by omega
  have hf : ∀ c, s.advance.mode ≠ .faulted c := by simp [hm]
  refine ⟨_, step_of_unknown hm hp' (nextInstr_of_decode_error hp' hd), ?_, ?_, fun hen => ?_⟩
  · unfold PcAdvances
    rw [State.countInstr_pc]
    exact pcAdvances_advance s
  · cases hen : s.debugEnabled with
    | true =>
      exact ((unchangedExcept_setPc s _).then_trans (unchangedExcept_countInstr s.advance)).mono
        fun c hc => hc.imp_right fun hc => ⟨hc, rfl⟩
    | false =>
      rw [countInstr_of_disabled (s := s.advance) hen]
      exact (unchangedExcept_setPc s _).mono fun _ => Or.inl
  · rw [countInstr_of_enabled hf hen]
    rfl

/-- Settles O10: the fault is taken before anything changes, and the host takes its random byte back. -/
theorem fetchOutOfBoundsFaults : Obligations.FetchOutOfBoundsFaults := by
  unfold Obligations.FetchOutOfBoundsFaults
  intro s hm hp
  refine ⟨step_of_outOfBounds hm (by omega), fun r hr => ?_⟩
  refine (hostStep_of_next (step_of_outOfBounds (s := s.supply r) hm (by rw [State.supply_pc]; omega))).trans ?_
  have hback : ((s.supply r).takeFault .fetchOutOfBounds).unsupply = s.takeFault .fetchOutOfBounds := by
    show { s with mode := .faulted .fetchOutOfBounds, randIn := none } = _
    rw [← hr]
    rfl
  rw [hback]
  rfl

/-- Settles O11, for the step and for the host's step. -/
theorem faultedCoreRepeatsCause : Obligations.FaultedCoreRepeatsCause := by
  unfold Obligations.FaultedCoreRepeatsCause
  exact fun s c h => ⟨step_of_faulted h, fun r => hostStep_of_faulted r h⟩

/-! ### The key wait (R75) -/

theorem leastKey_eq_none {keys : Word} (h : ∀ k : Fin 16, keys.getLsbD k = false) : leastKey keys = none := by
  cases hk : leastKey keys with
  | none => rfl
  | some k => cases (h k).symm.trans (leastKey_some hk).1

theorem leastKey_eq_some {keys : Word} {k : Fin 16} (hk : keys.getLsbD k = true)
    (hlt : ∀ j : Fin 16, j < k → keys.getLsbD j = false) : leastKey keys = some k := by
  cases h : leastKey keys with
  | none => cases (leastKey_none h k).symm.trans hk
  | some j =>
    obtain ⟨hj, hmin⟩ := leastKey_some h
    rcases lt_trichotomy j k with hjk | rfl | hkj
    · cases (hlt j hjk).symm.trans hj
    · rfl
    · cases (hmin k hkj).symm.trans hk

theorem newKeys_eq_false_iff (s : State) (base : Word) (k : Fin 16) :
    (newKeys s base).getLsbD k.val = false ↔ (s.KEY.getLsbD k.val = true → base.getLsbD k.val = true) := by
  rw [newKeys_getLsbD]
  cases s.KEY.getLsbD k.val <;> simp

/-- Settles O15, by whether a key went down since the snapshot. -/
theorem keyWaitEndsWithLeastNewKey : Obligations.KeyWaitEndsWithLeastNewKey := by
  unfold Obligations.KeyWaitEndsWithLeastNewKey
  intro s x base hm
  rw [step_of_awaiting hm, awaitStep]
  refine ⟨fun hold => ?_, fun k hdown hup hleast => ?_⟩
  · have hnone : leastKey (newKeys s base) = none :=
      leastKey_eq_none fun k => (newKeys_eq_false_iff s base k).mpr (hold k)
    rw [hnone]
    rfl
  · have hsome : leastKey (newKeys s base) = some k := by
      refine leastKey_eq_some ?_ fun j hj => (newKeys_eq_false_iff s base j).mpr (hleast j hj)
      rw [newKeys_getLsbD, hdown, hup]
      rfl
    rw [hsome]
    refine ⟨_, rfl, rfl, ?_, BitVec.toNat_add s.pc 2, ?_⟩
    · have hk := k.isLt
      simp
      omega
    · exact (((unchangedExcept_setV s x _).then_setPc _).then_trans (unchangedExcept_setMode _ _)).mono (by tauto)

end Sys2Proof.Machine
end

section
/-! PROOF. The invariant of every run. Its four clauses that do not speak of the mode (`Bounded`) are kept by every instruction;
the two that do follow from how the mode changes: by a fault taken, by Fx0A, or by the end of a key wait. -/

namespace Sys2Proof.Machine

/-! ### The clauses that do not speak of the mode -/

/-- Memory is canonical, the stack holds at most 16 return addresses, and pc and they are bounded. -/
structure Bounded (s : State) : Prop where
  memory : Memory.wf s.cfg s.mem = true
  depth : s.stack.length ≤ 16
  returns : ∀ v ∈ s.stack, v.toNat ≤ 0x1000
  pcBound : s.pc.toNat ≤ 0x10FE

theorem Inv.bounded {s : State} (h : Inv s) : Bounded s := ⟨h.memory, h.depth, h.returns, h.pcBound⟩

/-- With memory and stack as they were, only the new pc is to be bounded. -/
theorem Bounded.move {s t : State} (h : Bounded s) (hcfg : t.cfg = s.cfg) (hmem : t.mem = s.mem)
    (hstack : t.stack = s.stack) (hpc : t.pc.toNat ≤ 0x10FE) : Bounded t where
  memory := by rw [hcfg, hmem]; exact h.memory
  depth := by rw [hstack]; exact h.depth
  returns := by rw [hstack]; exact h.returns
  pcBound := hpc

theorem Bounded.setMode {s : State} (h : Bounded s) (m : Mode) : Bounded (s.setMode m) :=
  h.move rfl rfl rfl h.pcBound

/-- A store inside memory, then a move of I or none, then the move of pc. -/
theorem Bounded.store {s t : State} {a : Nat} {bs : List Byte} (h : Bounded s) (hin : a + bs.length ≤ 4096)
    (hcfg : t.cfg = s.cfg) (hmem : t.mem = (s.storeRun a bs).mem) (hstack : t.stack = s.stack)
    (hpc : t.pc.toNat ≤ 0x10FE) : Bounded t :=
  { memory := State.storeRun_wf h.memory hin, depth := h.depth, returns := h.returns, pcBound := h.pcBound :
    Bounded (s.storeRun a bs) }.move hcfg hmem hstack hpc

/-! ### Where an instruction leaves pc -/

section
variable {s : State} (hp : s.pc.toNat < 0xFFF)
include hp

/-- The next instruction is at most at 0x1000 (R69, R70). -/
theorem pcNext_le : (s.pc + 2).toNat ≤ 0x1000 := by
  rw [BitVec.toNat_add]
  show (s.pc.toNat + 2) % 65536 ≤ 0x1000
  omega

theorem advance_pc_le : (s.pc + 2).toNat ≤ 0x10FE := (pcNext_le hp).trans (by decide)

theorem skipIf_pc_le (c : Bool) : (s.skipIf c).pc.toNat ≤ 0x10FE := by
  have h4 : (s.pc + 4).toNat = (s.pc.toNat + 4) % 65536 := BitVec.toNat_add s.pc 4
  rw [State.skipIf_eq, State.setPc_pc]
  cases c with
  | true => exact h4.trans_le (by omega)
  | false => exact advance_pc_le hp

end

theorem addrOf_le (nnn : Addr) : (addrOf nnn).toNat ≤ 0x10FE := by
  rw [addrOf_toNat]
  omega

/-- The largest value that Bnnn leaves in pc is 0xFFF + 0xFF (R87). -/
theorem addrPlusV0_toNat (s : State) (nnn : Addr) : (addrPlusV0 s nnn).toNat = nnn.toNat + (s.getV 0).toNat := by
  have hn := nnn.isLt
  have hv := (s.getV 0).isLt
  rw [addrPlusV0, BitVec.toNat_add, addrOf_toNat, BitVec.toNat_setWidth_of_le (by decide)]
  omega

theorem addrPlusV0_le (s : State) (nnn : Addr) : (addrPlusV0 s nnn).toNat ≤ 0x10FE := by
  rw [addrPlusV0_toNat]
  omega

/-! ### Every instruction keeps the bounds -/

theorem Bounded.skipIf {s : State} (h : Bounded s) (hp : s.pc.toNat < 0xFFF) (c : Bool) : Bounded (s.skipIf c) := by
  have hpc := skipIf_pc_le hp c
  rw [State.skipIf_eq] at hpc ⊢
  exact h.move rfl rfl rfl hpc

theorem exec_keeps_bounded {i : Instr} {s t : State} (h : Bounded s) (hp : s.pc.toNat < 0xFFF)
    (e : exec i s = .next t) : Bounded t := by
  have hnext := advance_pc_le hp
  cases i with
  | seVB | sneVB | seVV | sneVV | skp | sknp => cases e; exact h.skipIf hp _
  | jp nnn => cases e; exact h.move rfl rfl rfl (addrOf_le nnn)
  | jpV0 nnn => cases e; exact h.move rfl rfl rfl (addrPlusV0_le s nnn)
  | call nnn =>
    rcases exec_call_cases s nnn with ⟨hroom, e'⟩ | ⟨_, e'⟩ <;> cases e'.symm.trans e
    · exact ⟨h.memory, hroom, List.forall_mem_cons.mpr ⟨pcNext_le hp, h.returns⟩, addrOf_le nnn⟩
    · exact h.setMode _
  | ret =>
    rcases exec_ret_cases s with ⟨_, e'⟩ | ⟨v, st, hst, e'⟩ <;> cases e'.symm.trans e
    · exact h.setMode _
    · have hd := h.depth
      have hr := h.returns
      rw [hst] at hd hr
      obtain ⟨hv, hrest⟩ := List.forall_mem_cons.mp hr
      exact ⟨h.memory, (Nat.le_succ _).trans hd, hrest, hv.trans (by decide)⟩
  | ldBV x =>
    rcases exec_ldBV_cases s x with ⟨hin, e'⟩ | ⟨_, e'⟩ <;> cases e'.symm.trans e
    · exact h.store hin rfl rfl rfl hnext
    · exact h.setMode _
  | ldMV x =>
    rcases exec_ldMV_cases s x with ⟨hin, e'⟩ | ⟨_, e'⟩ <;> cases e'.symm.trans e
    · rw [← regsUpTo_length s x] at hin
      exact h.store hin rfl rfl rfl hnext
    · exact h.setMode _
  | ldVM x =>
    rcases exec_ldVM_cases s x with ⟨_, e'⟩ | ⟨_, e'⟩ <;> cases e'.symm.trans e
    · exact h.move rfl rfl rfl hnext
    · exact h.setMode _
  | drw x y n =>
    rcases exec_drw_cases s x y n with ⟨_, e'⟩ | ⟨_, e'⟩ <;> cases e'.symm.trans e
    · exact h.move rfl rfl rfl hnext
    · exact h.setMode _
  | ldVK x => cases (exec_ldVK s x).symm.trans e; exact h.setMode _
  | _ => cases e; exact h.move rfl rfl rfl hnext

/-! ### The clauses that speak of the mode -/

/-- The invariant looks at six fields only. -/
theorem Inv.congr {s t : State} (h : Inv s) (hcfg : t.cfg = s.cfg) (hmem : t.mem = s.mem) (hpc : t.pc = s.pc)
    (hI : t.I = s.I) (hstack : t.stack = s.stack) (hmode : t.mode = s.mode) : Inv t := by
  cases s
  cases t
  subst hcfg hmem hpc hI hstack hmode
  exact ⟨h.memory, h.depth, h.returns, h.pcBound, h.waiting, h.fault⟩

theorem Bounded.inv_of_running {s : State} (h : Bounded s) (hm : s.mode = .running) : Inv s where
  memory := h.memory
  depth := h.depth
  returns := h.returns
  pcBound := h.pcBound
  waiting _ _ hw := by cases hm.symm.trans hw
  fault _ hf := by cases hm.symm.trans hf

theorem Bounded.inv_awaiting {s : State} {x : Reg} (h : Bounded s) (hn : s.nextInstr = some (.ldVK x)) (base : Word) :
    Inv (s.setMode (.awaitingKey x base)) where
  memory := h.memory
  depth := h.depth
  returns := h.returns
  pcBound := h.pcBound
  waiting _ _ hw := by cases hw; exact hn
  fault _ hf := by cases hf

theorem Bounded.inv_takeFault {s : State} {c : Fault} (h : Bounded s) (hj : FaultJustified s c) :
    Inv (s.takeFault c) where
  memory := h.memory
  depth := h.depth
  returns := h.returns
  pcBound := h.pcBound
  waiting _ _ hw := by cases hw
  fault _ hf := by cases hf; exact hj

theorem Inv.countInstr {s : State} (h : Inv s) : Inv s.countInstr :=
  h.congr (by simp) (by simp) (by simp) (by simp) (by simp) (by simp)

/-- The instruction at pc keeps the invariant: it takes a justified fault, begins a key wait, or goes on in mode Running. -/
theorem exec_keeps_inv {i : Instr} {s t : State} (h : Inv s) (hm : s.mode = .running) (hn : s.nextInstr = some i)
    (e : exec i s = .next t) : Inv t := by
  rcases exec_outcome e with ⟨c, hc, rfl⟩ | ⟨hf, _⟩
  · exact h.bounded.inv_takeFault ((faultJustified_iff_faults hn h.depth c).mpr hc)
  · rcases exec_mode e hf with hmode | ⟨x, rfl, rfl⟩
    · exact (exec_keeps_bounded h.bounded (nextInstr_lt hn) e).inv_of_running (hmode.trans hm)
    · exact h.bounded.inv_awaiting hn s.KEY

theorem awaitStep_keeps_inv {s : State} {x : Reg} {base : Word} (h : Inv s) (hm : s.mode = .awaitingKey x base) :
    Inv (awaitStep x base s) := by
  have hn : s.nextInstr = some (.ldVK x) := h.waiting x base hm
  rcases awaitStep_cases x base s with ⟨_, e⟩ | ⟨k, _, e⟩ <;> rw [e]
  · exact h.bounded.inv_awaiting hn s.KEY
  · have hb : Bounded (((s.setV x (BitVec.ofNat 8 k.val)).setPc (s.pc + 2)).setMode .running) :=
      h.bounded.move rfl rfl rfl (advance_pc_le (nextInstr_lt hn))
    exact hb.inv_of_running rfl

theorem step_keeps_inv {s t : State} (h : Inv s) (e : step s = .next t) : Inv t := by
  rcases step_cases e with ⟨x, base, hm, rfl⟩ | ⟨_, hp, rfl⟩ | ⟨hm, hp, _, rfl⟩ | ⟨i, hm, _, hn, hr⟩
  · exact awaitStep_keeps_inv h hm
  · exact h.bounded.inv_takeFault (c := .fetchOutOfBounds) hp
  · have hb : Bounded s.advance := h.bounded.move rfl rfl rfl (advance_pc_le hp)
    exact (hb.inv_of_running hm).countInstr
  · obtain ⟨u, eu, rfl⟩ := retire_cases hr
    exact (exec_keeps_inv h hm hn eu).countInstr

/-- Settles O19, by what the step does in each mode and at each kind of word. -/
theorem stepKeepsInvariant : Obligations.StepKeepsInvariant := by
  unfold Obligations.StepKeepsInvariant
  exact fun _ _ => step_keeps_inv

/-! ### Reset, and the host's operations -/

theorem bounded_resetWith (c : Config) : Bounded (State.resetWith c) where
  memory := State.resetWith_wf c
  depth := Nat.zero_le 16
  returns _ hv := by cases hv
  pcBound := show (0x200 : Word).toNat ≤ 0x10FE by decide

/-- Settles O20: the reset state is Running, with nothing in memory or on the stack. -/
theorem resetMeetsInvariant : Obligations.ResetMeetsInvariant := by
  unfold Obligations.ResetMeetsInvariant
  exact ⟨(bounded_resetWith Config.standard).inv_of_running rfl, fun c => (bounded_resetWith c).inv_of_running rfl⟩

theorem hostInit_keeps_inv {rom : List Byte} {s : State} (h : Inv s) : Inv (hostInit rom s).2 := by
  unfold hostInit
  rcases boot_cases s rom with ⟨hlen, e⟩ | ⟨_, e⟩ <;> rw [e]
  · have hz : Bounded s.zeroed := (bounded_resetWith s.cfg).move rfl rfl rfl (bounded_resetWith s.cfg).pcBound
    have hin : 0x200 + rom.length ≤ 4096 := by omega
    exact (hz.store (t := s.zeroed.storeRun 0x200 rom) hin rfl rfl rfl hz.pcBound).inv_of_running rfl
  · exact h

theorem hostStep_keeps_inv {r : Byte} {s t : State} {rep : Reply} (h : Inv s) (e : hostStep r s = .next (rep, t)) :
    Inv t := by
  have hs : Inv (s.supply r) := h.congr rfl rfl rfl rfl rfl rfl
  unfold hostStep at e
  split at e
  next u hu =>
    cases e
    exact (step_keeps_inv hs hu).congr rfl rfl rfl rfl rfl rfl
  next => cases e; exact h
  next => cases e

/-- Settles O21: initialize leaves the reset values and a ROM that fits, the step keeps the invariant, and no other operation
writes a field that the invariant looks at. -/
theorem hostOperationsKeepInvariant : Obligations.HostOperationsKeepInvariant := by
  unfold Obligations.HostOperationsKeepInvariant
  intro op s t rep h e
  cases op with
  | init rom =>
    have ht : hostInit rom s = (rep, t) := Host.Outcome.next.inj e
    have hi := hostInit_keeps_inv (rom := rom) h
    rw [ht] at hi
    exact hi
  | step r => exact hostStep_keeps_inv h e
  | _ => cases e; exact h.congr rfl rfl rfl rfl rfl rfl

end Sys2Proof.Machine
end

section
/-! PROOF. What no instruction reads: the sound timer (R29) and the debug fields (R35, R78). Executing under other values of them
is executing under the old ones and putting the other values over the result; only Fx18 replaces ST. And the timers
under the host's operations (R128). -/

namespace Sys2Proof.Machine

/-! ### Other values put over ST and the debug fields -/

/-- The state with other values in the three fields that no instruction reads. -/
def State.overlay (s : State) (st : Byte) (b : Bool) (n : Nat) : State :=
  { s with ST := st, debugEnabled := b, debugCount := n }

/-- ST after the instruction, where it was st before: Fx18 replaces it. -/
def soundAfter (s : State) (st : Byte) : Instr → Byte
  | .ldSTV x => s.getV x
  | _ => st

/-- The outcome with its next state mapped. -/
def mapNext (f : State → State) : Result → Result
  | .next t => .next (f t)
  | .fault c => .fault c
  | .refused q => .refused q

section
variable (s : State) (st : Byte) (b : Bool) (n : Nat)

theorem next_skipIf_overlay (c : Bool) :
    .next ((s.overlay st b n).skipIf c) = mapNext (·.overlay st b n) (.next (s.skipIf c)) := by
  cases c <;> rfl

theorem guardRange_overlay {t t' : State} (a len : Nat) (h : t' = t.overlay st b n) :
    guardRange (s.overlay st b n) a len t' = mapNext (·.overlay st b n) (guardRange s a len t) := by
  rw [h]
  unfold guardRange
  cases inRange a len <;> rfl

theorem regsLoadedBelow_overlay (k : Nat) : regsLoadedBelow (s.overlay st b n) k = regsLoadedBelow s k := by
  induction k with
  | zero => rfl
  | succ k ih => rw [regsLoadedBelow, regsLoadedBelow, ih]; rfl

theorem exec_overlay (i : Instr) :
    exec i (s.overlay st b n) = mapNext (·.overlay (soundAfter s st i) b n) (exec i s) := by
  cases i with
  | call nnn =>
    rcases exec_call_cases s nnn with ⟨hroom, e⟩ | ⟨hfull, e⟩
    · rw [e, exec_call_of_lt (s := s.overlay st b n) nnn hroom]; rfl
    · rw [e, exec_call_of_full (s := s.overlay st b n) nnn hfull]; rfl
  | ret =>
    rcases exec_ret_cases s with ⟨hnil, e⟩ | ⟨v, rest, hcons, e⟩
    · rw [e, exec_ret_of_nil (s := s.overlay st b n) hnil]; rfl
    · rw [e, exec_ret_of_cons (s := s.overlay st b n) hcons]; rfl
  | seVB | sneVB | seVV | sneVV | skp | sknp => exact next_skipIf_overlay s st b n _
  | ldBV | ldMV | drw => exact guardRange_overlay s st b n _ _ rfl
  | ldVM x =>
    refine guardRange_overlay s st b n _ _ ?_
    rw [regsLoaded, regsLoadedBelow_overlay]
    rfl
  | _ => rfl

theorem awaitStep_overlay (x : Reg) (base : Word) :
    awaitStep x base (s.overlay st b n) = (awaitStep x base s).overlay st b n := by
  have hkeys : newKeys (s.overlay st b n) base = newKeys s base := rfl
  unfold awaitStep
  rw [hkeys]
  cases leastKey (newKeys s base) <;> rfl

/-- Counting moves debug_count alone, so that under other values it is another count. -/
theorem exists_countInstr_overlay : ∃ n', (s.overlay st b n).countInstr = s.countInstr.overlay st b n' := by
  rcases State.countInstr_eq s with e | e <;> rcases State.countInstr_eq (s.overlay st b n) with e' | e'
  · exact ⟨n, by rw [e, e']⟩
  · exact ⟨n + 1, by rw [e, e']; rfl⟩
  · exact ⟨n, by rw [e, e']; rfl⟩
  · exact ⟨n + 1, by rw [e, e']; rfl⟩

end

theorem exec_overlay_of_next {i : Instr} {s t : State} (h : exec i s = .next t) (st : Byte) (b : Bool) (n : Nat) :
    exec i (s.overlay st b n) = .next (t.overlay (soundAfter s st i) b n) := by
  rw [exec_overlay, h, mapNext]

/-- Putting the state's own values over it changes nothing. -/
theorem exec_ST {i : Instr} {s t : State} (h : exec i s = .next t) : t.ST = soundAfter s s.ST i := by
  have e := exec_overlay_of_next h s.ST s.debugEnabled s.debugCount
  exact congrArg State.ST (Host.Outcome.next.inj (h.symm.trans e))

/-- The step under other values of the debug fields. -/
theorem step_overlay {s t : State} (b : Bool) (n : Nat) (h : step s = .next t) :
    ∃ n', step (s.overlay s.ST b n) = .next (t.overlay t.ST b n') := by
  rcases step_cases h with ⟨x, base, hm, rfl⟩ | ⟨hm, hp, rfl⟩ | ⟨hm, hp, hn, rfl⟩ | ⟨i, hm, _, hn, hr⟩
  · refine ⟨n, (step_of_awaiting (s := s.overlay s.ST b n) hm).trans ?_⟩
    have hST : (awaitStep x base s).ST = s.ST := unchangedExcept_awaitStep s x base .soundTimer (by simp)
    rw [awaitStep_overlay, hST]
  · exact ⟨n, step_of_outOfBounds (s := s.overlay s.ST b n) hm hp⟩
  · obtain ⟨n', e⟩ := exists_countInstr_overlay s.advance s.ST b n
    refine ⟨n', (step_of_unknown (s := s.overlay s.ST b n) hm hp hn).trans ?_⟩
    rw [State.countInstr_ST]
    exact congrArg _ e
  · obtain ⟨u, eu, rfl⟩ := retire_cases hr
    obtain ⟨n', e⟩ := exists_countInstr_overlay u u.ST b n
    refine ⟨n', ?_⟩
    rw [step_of_instr (s := s.overlay s.ST b n) hm hn, exec_overlay_of_next eu, ← exec_ST eu, retire_next, e,
      State.countInstr_ST]

theorem mode_of_step_fault {s : State} {c : Fault} (h : step s = .fault c) : s.mode = .faulted c := by
  by_cases hf : ∃ c', s.mode = .faulted c'
  · obtain ⟨c', hc'⟩ := hf
    cases (step_of_faulted hc').symm.trans h
    exact hc'
  · obtain ⟨t, e⟩ := step_answers_next (not_exists.mp hf)
    cases e.symm.trans h

/-- Settles O18: the debug fields are overlaid before the step, and what it answers is overlaid with them. -/
theorem debugFieldsAffectNothing : Obligations.DebugFieldsAffectNothing := by
  unfold Obligations.DebugFieldsAffectNothing
  intro s b n
  refine ⟨fun t h => step_overlay b n h, fun c h => ?_⟩
  have hm : s.mode = .faulted c := mode_of_step_fault h
  exact step_of_faulted (s := s.overlay s.ST b n) hm

/-! ### The timers (R29, R128) -/

theorem tick_toNat (v : Byte) : (tick v).toNat = v.toNat - 1 := by
  unfold tick
  split
  · subst v; rfl
  · bv_omega

theorem hostOp_timers {op : HostOp} {s t : State} {rep : Reply} (hstep : ∀ r, op ≠ .step r)
    (hinit : ∀ rom, op ≠ .init rom) (htick : op ≠ .advanceTimers) (h : hostOp op s = .next (rep, t)) :
    t.DT = s.DT ∧ t.ST = s.ST := by
  cases op with
  | step r => exact absurd rfl (hstep r)
  | init rom => exact absurd rfl (hinit rom)
  | advanceTimers => exact absurd rfl htick
  | _ => cases h; exact ⟨rfl, rfl⟩

/-- Settles O23: the step, the sound timer that no instruction reads, the tick, and the other operations. -/
theorem timersChangeOnlyByLoadAndTick : Obligations.TimersChangeOnlyByLoadAndTick := by
  unfold Obligations.TimersChangeOnlyByLoadAndTick
  refine ⟨fun s t => step_timers, fun i s t v h => ⟨soundAfter s v i, ?_⟩,
    fun s => ⟨_, rfl, tick_toNat s.DT, tick_toNat s.ST⟩, fun op s t rep => hostOp_timers⟩
  have henabled : t.debugEnabled = s.debugEnabled :=
    exec_same (c := .debugEnabled) h (by simp) (by simp) (by cases i <;> simp [Writes])
  have hcount : t.debugCount = s.debugCount :=
    exec_same (c := .debugCount) h (by simp) (by simp) (by cases i <;> simp [Writes])
  have hover : t.overlay (soundAfter s v i) s.debugEnabled s.debugCount = { t with ST := soundAfter s v i } := by
    rw [← henabled, ← hcount]
    rfl
  exact (exec_overlay_of_next h v s.debugEnabled s.debugCount).trans (congrArg _ hover)

/-- Settles O55, by induction on the number of calls. -/
theorem timersCountDownAndStopAtZero : Obligations.TimersCountDownAndStopAtZero := by
  unfold Obligations.TimersCountDownAndStopAtZero
  refine ⟨fun _ => rfl, fun k s => ?_⟩
  induction k with
  | zero => exact ⟨rfl, rfl, fun c _ => by cases c <;> rfl⟩
  | succ k ih =>
    obtain ⟨hDT, hST, hframe⟩ := ih
    rw [Function.iterate_succ_apply', State.advanceTimers_DT, State.advanceTimers_ST, tick_toNat, tick_toNat, hDT, hST]
    refine ⟨Nat.sub_sub _ _ _, Nat.sub_sub _ _ _, hframe.trans ?_⟩
    exact (unchangedExcept_setDT _ _).then_trans (unchangedExcept_setST _ _)

end Sys2Proof.Machine
end

section
/-! PROOF. Memory (R106 to R108, R46): what the three transfers store and load, what they leave alone, and that a canonical
memory is determined by what it reads as. -/

namespace Sys2Proof.Machine

/-! ### Fx33 (R106) -/

/-- The three digits are digits, and their value is the byte. -/
theorem decimalDigits_spec (v : Byte) :
    ∃ h t o : Byte, decimalDigits v = [h, t, o] ∧ h.toNat ≤ 9 ∧ t.toNat ≤ 9 ∧ o.toNat ≤ 9 ∧
      100 * h.toNat + 10 * t.toNat + o.toNat = v.toNat := by
  have hv := v.isLt
  have hh : (v / 100).toNat = v.toNat / 100 := by simp
  have ht : ((v / 10) % 10).toNat = v.toNat / 10 % 10 := by simp
  have ho : (v % 10).toNat = v.toNat % 10 := by simp
  refine ⟨_, _, _, rfl, ?_⟩
  rw [hh, ht, ho]
  omega

/-- Settles O42: the range is in memory, and the bytes stored are the decimal digits. -/
theorem bcdStoresThreeDigits : Obligations.BcdStoresThreeDigits := by
  unfold Obligations.BcdStoresThreeDigits
  intro x s hm hI
  obtain ⟨h, t, o, hdigits, hh, ht, ho, hvalue⟩ := decimalDigits_spec (s.getV x)
  have hin : s.I.toNat + [h, t, o].length ≤ 4096 := by simp; omega
  refine ⟨_, exec_ldBV_of_le x hI, ?_⟩
  rw [hdigits]
  have h0 : (s.storeRun s.I.toNat [h, t, o]).advance.byteAt s.I.toNat = h := by
    simp [State.byteAt_storeRun hm hin]
  have h1 : (s.storeRun s.I.toNat [h, t, o]).advance.byteAt (s.I.toNat + 1) = t := by
    simp [State.byteAt_storeRun hm hin]
  have h2 : (s.storeRun s.I.toNat [h, t, o]).advance.byteAt (s.I.toNat + 2) = o := by
    simp [State.byteAt_storeRun hm hin]
  rw [h0, h1, h2]
  exact ⟨hh, ht, ho, hvalue, pcAdvances_advance _, (unchangedExcept_storeRun s (len := 3) rfl).then_advance⟩

/-! ### Fx55 and Fx65 (R107, R108) -/

theorem indexAfterBlock_toNat {s : State} {x : Reg} (h : s.I.toNat + x.val < 4096) :
    (indexAfterBlock s x).toNat = s.I.toNat + x.val + 1 := by
  rw [indexAfterBlock, BitVec.toNat_add, BitVec.toNat_ofNat]
  omega

theorem byteAt_storeRegs {s : State} {x r : Reg} (hm : Memory.wf s.cfg s.mem = true)
    (hI : s.I.toNat + x.val < 4096) (hr : r ≤ x) :
    (s.storeRun s.I.toNat (regsUpTo s x)).byteAt (s.I.toNat + r.val) = s.getV r := by
  have hrx : r.val ≤ x.val := hr
  have hlen := regsUpTo_length s x
  rw [State.byteAt_storeRun hm (by omega), if_pos (by omega), Nat.add_sub_cancel_left, regsUpTo_getD s x r hr]

/-- Settles O43: each register is stored at its place, and the frame is that of the store and of I. -/
theorem blockStoreWritesRegisters : Obligations.BlockStoreWritesRegisters := by
  unfold Obligations.BlockStoreWritesRegisters
  intro x s hm hI
  refine ⟨_, exec_ldMV_of_le hI, fun r hr => byteAt_storeRegs hm hI hr, indexAfterBlock_toNat hI,
    pcAdvances_advance _, ?_⟩
  exact (((unchangedExcept_storeRun s (regsUpTo_length s x)).then_trans (unchangedExcept_setI _ _)).then_advance).mono
    fun c hc => hc.imp_right Or.symm

/-- Settles O44: each register is loaded from its place, and the frame is that of the registers and of I. -/
theorem blockLoadReadsMemory : Obligations.BlockLoadReadsMemory := by
  unfold Obligations.BlockLoadReadsMemory
  intro x s hI
  refine ⟨_, exec_ldVM_of_le hI, fun r hr => (regsLoaded_getV s x r).trans (if_pos hr), indexAfterBlock_toNat hI,
    pcAdvances_advance _, ?_⟩
  exact (((unchangedExcept_regsLoaded s x).then_trans (unchangedExcept_setI _ _)).then_advance).mono
    fun c hc => hc.imp_right Or.symm

theorem byteAt_congr {s t : State} (hcfg : s.cfg = t.cfg) (hmem : s.mem = t.mem) (a : Nat) : s.byteAt a = t.byteAt a := by
  unfold State.byteAt
  rw [hcfg, hmem]

/-- Settles O45: what is loaded are the bytes that the store left, and these are the registers. -/
theorem blockLoadInvertsBlockStore : Obligations.BlockLoadInvertsBlockStore := by
  unfold Obligations.BlockLoadInvertsBlockStore
  intro x s t u hm hI e hcfg hmem hu
  cases (exec_ldMV_of_le hI).symm.trans e
  have hI' : u.I.toNat + x.val < 4096 := by rw [hu]; exact hI
  refine ⟨_, exec_ldVM_of_le hI', fun r hr => ?_⟩
  calc (u.setAllV (regsLoaded u x)).getV r
      = u.byteAt (u.I.toNat + r.val) := (regsLoaded_getV u x r).trans (if_pos hr)
    _ = (s.storeRun s.I.toNat (regsUpTo s x)).byteAt (s.I.toNat + r.val) := by rw [byteAt_congr hcfg hmem, hu]; rfl
    _ = s.getV r := byteAt_storeRegs hm hI hr

/-- Settles O47: the two bytes fetched at the new pc are V0 and V1 as stored. -/
theorem storeOverNextInstructionIsFetched : Obligations.StoreOverNextInstructionIsFetched := by
  unfold Obligations.StoreOverNextInstructionIsFetched
  intro s t hm hp hI e
  have hin : s.I.toNat + (1 : Reg).val < 4096 := by rw [hI]; show _ + 1 < 4096; omega
  cases (exec_ldMV_of_le hin).symm.trans e
  have hpc : (s.pc + 2).toNat = s.I.toNat := by
    rw [hI, BitVec.toNat_add]
    show (s.pc.toNat + 2) % 65536 = _
    omega
  refine ⟨opcodeOf (s.getV 0) (s.getV 1), ?_, by rw [opcodeOf_toNat]; omega⟩
  have h0 := byteAt_storeRegs (r := 0) hm hin (by decide)
  have h1 := byteAt_storeRegs (r := 1) hm hin (by decide)
  rw [fetch_of_lt (show (s.pc + 2).toNat < 0xFFF by omega)]
  show some (opcodeOf (State.byteAt _ (s.pc + 2).toNat) (State.byteAt _ ((s.pc + 2).toNat + 1))) = _
  rw [hpc]
  exact congrArg some (congrArg₂ opcodeOf h0 h1)

/-! ### An access that leaves memory (R46) -/

/-- Settles O46: each of the four ranges passes the end of memory. -/
theorem outOfRangeAccessFaults : Obligations.OutOfRangeAccessFaults := by
  unfold Obligations.OutOfRangeAccessFaults
  intro x y n s
  refine ⟨fun h => ?_, fun h => ?_, fun h => ?_, fun hn h => ?_⟩
  · exact exec_of_faults (c := .memoryOutOfBounds) ⟨Nat.succ_pos 2, Nat.succ_le_succ h⟩
  · exact exec_of_faults (c := .memoryOutOfBounds) ⟨Nat.succ_pos x.val, Nat.succ_le_succ h⟩
  · exact exec_of_faults (c := .memoryOutOfBounds) ⟨Nat.succ_pos x.val, Nat.succ_le_succ h⟩
  · exact exec_of_faults (c := .memoryOutOfBounds) ⟨hn, show 4096 < s.I.toNat + n.val by omega⟩

/-! ### The canonical form (log 4) -/

/-- Where one list has an entry and the other begins later, they read differently. -/
theorem Memory.read_head_ne {c : Config} {a : Nat} {v : Byte} {m' : Memory} (m : Memory) (hv : v ≠ resetByte c a)
    (h' : Memory.wfFrom c (a + 1) m' = true) : Memory.read c ((a, v) :: m) a ≠ Memory.read c m' a := by
  rw [Memory.read_of_lt h' (Nat.lt_succ_self a), Memory.read_cons, if_pos rfl]
  exact hv

/-- After a common address, which neither tail lists, the tails read alike where the lists do. -/
theorem Memory.read_tail_eq {c : Config} {a d : Nat} {v : Byte} {m m' : Memory}
    (h : Memory.wfFrom c (a + 1) m = true) (h' : Memory.wfFrom c (a + 1) m' = true)
    (hread : Memory.read c ((a, v) :: m) d = Memory.read c ((a, v) :: m') d) : Memory.read c m d = Memory.read c m' d := by
  by_cases hd : d = a
  · subst hd
    rw [Memory.read_of_lt h (Nat.lt_succ_self d), Memory.read_of_lt h' (Nat.lt_succ_self d)]
  · rwa [Memory.read_cons, Memory.read_cons, if_neg hd, if_neg hd] at hread

theorem Memory.eq_of_read_eq {c : Config} {lo : Nat} {m m' : Memory} (h : Memory.wfFrom c lo m = true)
    (h' : Memory.wfFrom c lo m' = true) (hread : ∀ a, a < 4096 → Memory.read c m a = Memory.read c m' a) : m = m' := by
  induction m generalizing lo m' with
  | nil =>
    cases m' with
    | nil => rfl
    | cons e' m' =>
      obtain ⟨b, w⟩ := e'
      obtain ⟨_, hb, hw, _⟩ := (Memory.wfFrom_cons c lo b w m').mp h'
      exact absurd (hread b hb).symm (Memory.read_head_ne m' hw (Memory.wfFrom_nil c _))
  | cons e m ih =>
    obtain ⟨a, v⟩ := e
    obtain ⟨_, ha, hv, hm⟩ := (Memory.wfFrom_cons c lo a v m).mp h
    cases m' with
    | nil => exact absurd (hread a ha) (Memory.read_head_ne m hv (Memory.wfFrom_nil c _))
    | cons e' m' =>
      obtain ⟨b, w⟩ := e'
      obtain ⟨_, hb, hw, hm'⟩ := (Memory.wfFrom_cons c lo b w m').mp h'
      rcases lt_trichotomy a b with hab | rfl | hba
      · have hlater : Memory.wfFrom c (a + 1) ((b, w) :: m') = true :=
          (Memory.wfFrom_cons c _ b w m').mpr ⟨hab, hb, hw, hm'⟩
        exact absurd (hread a ha) (Memory.read_head_ne m hv hlater)
      · obtain rfl : v = w := by simpa using hread a ha
        rw [ih hm hm' fun d hd => Memory.read_tail_eq hm hm' (hread d hd)]
      · have hlater : Memory.wfFrom c (b + 1) ((a, v) :: m) = true :=
          (Memory.wfFrom_cons c _ a v m).mpr ⟨hba, ha, hv, hm⟩
        exact absurd (hread b hb).symm (Memory.read_head_ne m' hw hlater)

/-- Settles O48, by induction along the two lists: their least addresses and the bytes there must agree. -/
theorem canonicalMemoryIsUnique : Obligations.CanonicalMemoryIsUnique := by
  unfold Obligations.CanonicalMemoryIsUnique
  exact fun c m m' => Memory.eq_of_read_eq

end Sys2Proof.Machine
end

section
/-! PROOF. The display (R109, R110): on the screen each source pixel of a sprite has a place of its own, so that a draw inverts
exactly the pixels on which a 1 bit lands, and it erases one exactly if such a pixel was set before. -/

namespace Sys2Proof.Machine

/-- Settles O49: the frame is replaced by the empty one. -/
theorem clearScreen : Obligations.ClearScreen := by
  unfold Obligations.ClearScreen
  intro s
  refine ⟨_, exec_cls s, fun x y => ?_, rfl, pcAdvances_advance _, (unchangedExcept_setFB s _).then_advance⟩
  show (Vector.replicate 32 (0 : BitVec 64))[y.val].getLsbD x.val = false
  simp

/-! ### Each pixel has one source column and row -/

theorem exists_screenX (vx : Byte) (px : Fin 64) : ∃ col, col < 64 ∧ px = screenX vx col := by
  have hv := vx.isLt
  refine ⟨(px.val + 256 - vx.toNat) % 64, Nat.mod_lt _ (by decide), Fin.ext ?_⟩
  show px.val = ((px.val + 256 - vx.toNat) % 64 + vx.toNat) % 64
  omega

theorem exists_screenY (vy : Byte) (py : Fin 32) : ∃ row, row < 32 ∧ py = screenY vy row := by
  have hv := vy.isLt
  refine ⟨(py.val + 256 - vy.toNat) % 32, Nat.mod_lt _ (by decide), Fin.ext ?_⟩
  show py.val = ((py.val + 256 - vy.toNat) % 32 + vy.toNat) % 32
  omega

/-- The sprite sets a pixel exactly if the pixel's own source coordinates lie in the sprite and hold a 1 bit. -/
theorem spriteSets_screen_iff (s : State) (vx vy : Byte) (n : Fin 16) {row col : Nat} (hrow : row < 32) (hcol : col < 64) :
    SpriteSets s vx vy n (screenX vx col) (screenY vy row) ↔
      row < n.val ∧ col < 8 ∧ (s.byteAt (s.I.toNat + row)).getLsbD (7 - col) = true := by
  constructor
  · rintro ⟨row', col', ⟨hrow', hcol', hx, hy⟩, hbit⟩
    obtain rfl : col = col' := (screenX_inj vx hcol (by omega)).mp (Fin.ext hx)
    obtain rfl : row = row' := (screenY_inj vy hrow (by omega)).mp (Fin.ext hy)
    exact ⟨hrow', hcol', hbit⟩
  · rintro ⟨hn, h8, hbit⟩
    exact ⟨row, col, ⟨hn, h8, rfl, rfl⟩, hbit⟩

/-! ### The pixels after a draw -/

/-- A pixel is inverted exactly if the sprite sets it. -/
theorem drawnCanvas_pixel_eq_iff (s : State) (x y : Reg) (n : Fin 16) (px : Fin 64) (py : Fin 32) :
    Frame.pixel (drawnCanvas s x y n).fb px py = (!s.pixel px py) ↔ SpriteSets s (s.getV x) (s.getV y) n px py := by
  obtain ⟨col, hcol, rfl⟩ := exists_screenX (s.getV x) px
  obtain ⟨row, hrow, rfl⟩ := exists_screenY (s.getV y) py
  rw [spriteSets_screen_iff s _ _ n hrow hcol]
  by_cases hin : row < n.val ∧ col < 8
  · rw [drawnCanvas_pixel s x y n hin.1 hin.2]
    cases s.pixel _ _ <;> simp [hin]
  · rw [drawnCanvas, drawRows_pixel _ _ _ _ hrow hcol (by omega)]
    refine iff_of_false ?_ fun h => hin ⟨h.1, h.2.1⟩
    simp [hin, State.pixel]

/-! ### Erasure -/

section
variable (c : Canvas) (vx vy : Byte)

/-- When a source pixel is plotted its place still shows what it showed before the draw. -/
theorem drawCols_erased_iff (row : Nat) (b : Byte) {k : Nat} (hk : k ≤ 64) :
    (c.drawCols vx vy row b k).erased = true ↔
      c.erased = true ∨ ∃ col, col < k ∧ spriteBit b col = true ∧
        Frame.pixel c.fb (screenX vx col) (screenY vy row) = true := by
  induction k with
  | zero => simp [Canvas.drawCols]
  | succ k ih =>
    have hpixel := drawCols_pixel c vx vy row b (screenY vy row) (col := k) (k := k) (by omega) (by omega)
    rw [Canvas.drawCols, plot_erased, hpixel, Bool.or_eq_true, ih (by omega), or_assoc, Nat.exists_lt_succ_right]
    simp

theorem drawRows_erased_iff (sprite : List Byte) {k : Nat} (hk : k ≤ 32) :
    (c.drawRows vx vy sprite k).erased = true ↔
      c.erased = true ∨ ∃ row, row < k ∧ ∃ col, col < 8 ∧ spriteBit (sprite.getD row 0) col = true ∧
        Frame.pixel c.fb (screenX vx col) (screenY vy row) = true := by
  induction k with
  | zero => simp [Canvas.drawRows]
  | succ k ih =>
    have hpixel : ∀ col, col < 8 → Frame.pixel (c.drawRows vx vy sprite k).fb (screenX vx col) (screenY vy k) =
        Frame.pixel c.fb (screenX vx col) (screenY vy k) := by
      intro col hcol
      rw [drawRows_pixel c vx vy sprite (by omega) (by omega) (by omega)]
      simp
    have hlast : (∃ col, col < 8 ∧ spriteBit (sprite.getD k 0) col = true ∧
          Frame.pixel (c.drawRows vx vy sprite k).fb (screenX vx col) (screenY vy k) = true) ↔
        ∃ col, col < 8 ∧ spriteBit (sprite.getD k 0) col = true ∧
          Frame.pixel c.fb (screenX vx col) (screenY vy k) = true :=
      exists_congr fun col => and_congr_right fun hcol => by rw [hpixel col hcol]
    rw [Canvas.drawRows, drawCols_erased_iff _ vx vy _ _ (by decide), ih (by omega), or_assoc, hlast,
      Nat.exists_lt_succ_right (n := k)]

end

/-- The draw reports an erasure exactly if the sprite sets a pixel that was set. -/
theorem drawnCanvas_erased_iff (s : State) (x y : Reg) (n : Fin 16) :
    (drawnCanvas s x y n).erased = true ↔
      ∃ px py, SpriteSets s (s.getV x) (s.getV y) n px py ∧ s.pixel px py = true := by
  rw [drawnCanvas, drawRows_erased_iff _ _ _ _ (by omega)]
  constructor
  · rintro (hfalse | ⟨row, hrow, col, hcol, hbit, hset⟩)
    · cases hfalse
    · rw [spriteBytes_getD s hrow] at hbit
      exact ⟨screenX (s.getV x) col, screenY (s.getV y) row, ⟨row, col, ⟨hrow, hcol, rfl, rfl⟩, hbit⟩, hset⟩
  · rintro ⟨px, py, ⟨row, col, ⟨hrow, hcol, hx, hy⟩, hbit⟩, hset⟩
    obtain rfl : px = screenX (s.getV x) col := Fin.ext hx
    obtain rfl : py = screenY (s.getV y) row := Fin.ext hy
    rw [← spriteBytes_getD s hrow] at hbit
    exact .inr ⟨row, hrow, col, hcol, hbit, hset⟩

theorem collisionFlag_eq_one_iff (e : Bool) : collisionFlag e = 1 ↔ e = true := by
  cases e <;> decide

theorem collisionFlag_eq_zero_iff (e : Bool) : collisionFlag e = 0 ↔ ¬ e = true := by
  cases e <;> decide

/-! ### The instruction -/

/-- The state after a draw inside memory. -/
def afterDraw (s : State) (x y : Reg) (n : Fin 16) : State :=
  ((s.setFB (drawnCanvas s x y n).fb).setV VF (collisionFlag (drawnCanvas s x y n).erased)).advance

theorem afterDraw_pixel_of_sets {s : State} {x y : Reg} {n : Fin 16} {px : Fin 64} {py : Fin 32}
    (h : SpriteSets s (s.getV x) (s.getV y) n px py) : (afterDraw s x y n).pixel px py = !s.pixel px py :=
  (drawnCanvas_pixel_eq_iff s x y n px py).mpr h

theorem afterDraw_pixel_of_not_sets {s : State} {x y : Reg} {n : Fin 16} {px : Fin 64} {py : Fin 32}
    (h : ¬ SpriteSets s (s.getV x) (s.getV y) n px py) : (afterDraw s x y n).pixel px py = s.pixel px py := by
  have hne : (afterDraw s x y n).pixel px py ≠ !s.pixel px py := fun e => h ((drawnCanvas_pixel_eq_iff s x y n px py).mp e)
  simpa using Bool.eq_not_of_ne hne

theorem afterDraw_getV_VF (s : State) (x y : Reg) (n : Fin 16) :
    (afterDraw s x y n).getV 15 = collisionFlag (drawnCanvas s x y n).erased :=
  State.getV_setV_same _ VF _

/-- VF reports that a pixel which the sprite sets was set before. -/
theorem afterDraw_VF_eq_one_iff (s : State) (x y : Reg) (n : Fin 16) :
    (afterDraw s x y n).getV 15 = 1 ↔ ∃ px py, SpriteSets s (s.getV x) (s.getV y) n px py ∧ s.pixel px py = true := by
  rw [afterDraw_getV_VF, collisionFlag_eq_one_iff, drawnCanvas_erased_iff]

theorem afterDraw_VF_eq_zero_iff (s : State) (x y : Reg) (n : Fin 16) :
    (afterDraw s x y n).getV 15 = 0 ↔ ¬ ∃ px py, SpriteSets s (s.getV x) (s.getV y) n px py ∧ s.pixel px py = true := by
  rw [afterDraw_getV_VF, collisionFlag_eq_zero_iff, drawnCanvas_erased_iff]

theorem unchangedExcept_afterDraw (s : State) (x y : Reg) (n : Fin 16) :
    UnchangedExcept (fun c => c = .pc ∨ c = .dirty ∨ c = .reg 15 ∨ ∃ px py, c = .pixel px py) s (afterDraw s x y n) :=
  (((unchangedExcept_setFB s _).then_trans (unchangedExcept_setV _ VF _)).then_advance).mono (by tauto)

/-- Settles O50: the pixels by whether the sprite sets them, and VF by whether it sets one that was set. -/
theorem drawInvertsSpritePixels : Obligations.DrawInvertsSpritePixels := by
  unfold Obligations.DrawInvertsSpritePixels
  intro x y n s hin
  refine ⟨afterDraw s x y n, exec_drw_of_le x y (by omega), fun px py => afterDraw_pixel_of_sets,
    fun px py => afterDraw_pixel_of_not_sets, ?_, fun hkept => ?_, rfl, pcAdvances_advance _,
    unchangedExcept_afterDraw s x y n⟩
  · rintro ⟨px, py, hset, hcleared⟩
    have hsprite : SpriteSets s (s.getV x) (s.getV y) n px py := by
      by_contra hno
      rw [afterDraw_pixel_of_not_sets hno, hset] at hcleared
      cases hcleared
    exact (afterDraw_VF_eq_one_iff s x y n).mpr ⟨px, py, hsprite, hset⟩
  · refine (afterDraw_VF_eq_zero_iff s x y n).mpr ?_
    rintro ⟨px, py, hsprite, hset⟩
    have hstill := hkept px py hset
    rw [afterDraw_pixel_of_sets hsprite, hset] at hstill
    cases hstill

/-- A draw at coordinates that VF does not hold leaves the sprite and its place as they were. -/
theorem spriteSets_afterDraw_iff {s : State} {x y : Reg} (hx : x ≠ 15) (hy : y ≠ 15) (n : Fin 16) (px : Fin 64) (py : Fin 32) :
    SpriteSets (afterDraw s x y n) ((afterDraw s x y n).getV x) ((afterDraw s x y n).getV y) n px py ↔
      SpriteSets s (s.getV x) (s.getV y) n px py := by
  have hVx : (afterDraw s x y n).getV x = s.getV x := unchangedExcept_afterDraw s x y n (.reg x) (by simp [hx])
  have hVy : (afterDraw s x y n).getV y = s.getV y := unchangedExcept_afterDraw s x y n (.reg y) (by simp [hy])
  rw [hVx, hVy]
  rfl

/-- Settles O52: the second draw inverts the same pixels again, and those it finds set are those that were unset at first. -/
theorem drawTwiceRestoresFrame : Obligations.DrawTwiceRestoresFrame := by
  unfold Obligations.DrawTwiceRestoresFrame
  intro x y n s hx hy hin
  have hsame := spriteSets_afterDraw_iff (s := s) hx hy n
  refine ⟨afterDraw s x y n, afterDraw (afterDraw s x y n) x y n, exec_drw_of_inRange x y hin,
    exec_drw_of_inRange (s := afterDraw s x y n) x y hin, fun px py => ?_, ?_⟩
  · by_cases h : SpriteSets s (s.getV x) (s.getV y) n px py
    · rw [afterDraw_pixel_of_sets ((hsame px py).mpr h), afterDraw_pixel_of_sets h, Bool.not_not]
    · rw [afterDraw_pixel_of_not_sets fun h' => h ((hsame px py).mp h'), afterDraw_pixel_of_not_sets h]
  · rw [afterDraw_VF_eq_one_iff]
    refine exists_congr fun px => exists_congr fun py => ?_
    rw [hsame px py]
    refine and_congr_right fun h => ?_
    rw [afterDraw_pixel_of_sets h, Bool.not_eq_true']

end Sys2Proof.Machine
end

section
/-! PROOF. Single instructions of control flow, arithmetic and input (R79, R83 to R87, R90 to R101, R103, R104, R117): each
answers an update of the state before, whose frame and fields are those of the updates. -/

namespace Sys2Proof.Machine

/-! ### Control flow -/

/-- Settles O27: SYS is the move of pc. -/
theorem sysIsNoOp : Obligations.SysIsNoOp := by
  unfold Obligations.SysIsNoOp
  exact fun nnn s => ⟨_, exec_sys s nnn, pcAdvances_advance s, unchangedExcept_setPc s _⟩

/-- Settles O29: the sum of a 12-bit and an 8-bit number does not wrap at 16 bits. -/
theorem jumpAddsV0 : Obligations.JumpAddsV0 := by
  unfold Obligations.JumpAddsV0
  exact fun nnn s => ⟨_, exec_jpV0 s nnn, addrPlusV0_toNat s nnn, unchangedExcept_setPc s _⟩

/-- Settles O31: RET takes back the entry that CALL pushed, and so only pc is not as before. -/
theorem callThenRetReturns : Obligations.CallThenRetReturns := by
  unfold Obligations.CallThenRetReturns
  intro nnn s hroom
  exact ⟨_, _, exec_call_of_lt nnn hroom, exec_ret_of_cons rfl, pcAdvances_advance s, unchangedExcept_setPc s (s.pc + 2)⟩

/-! ### Skips -/

/-- The frame and the move of pc that the six skips share: pc goes to pc + n, where n is 2 or 4 by a condition. -/
theorem skip_spec {i : Instr} {s : State} {p : Prop} [Decidable p] {m n : Nat}
    (h : exec i s = .next (s.setPc (if p then s.pc + BitVec.ofNat 16 m else s.pc + BitVec.ofNat 16 n))) :
    ∃ t, exec i s = .next t ∧ PcAdvances (if p then m else n) s t ∧ UnchangedExcept (fun c => c = .pc) s t := by
  refine ⟨_, h, ?_, unchangedExcept_setPc s _⟩
  unfold PcAdvances
  rw [State.setPc_pc]
  split <;> simp

/-- The key that SKP and SKNP test is that of the low nibble (R115). -/
theorem namedKeyDown_eq (s : State) (x : Reg) : namedKeyDown s x = s.KEY.getLsbD ((s.getV x).toNat % 16) := by
  simp [namedKeyDown, keyDown, lowNibble]

/-- Settles O32, skip by skip. -/
theorem skipsTestAndMoveOnlyPc : Obligations.SkipsTestAndMoveOnlyPc := by
  unfold Obligations.SkipsTestAndMoveOnlyPc
  intro x y kk s
  rw [← namedKeyDown_eq]
  exact ⟨skip_spec (exec_seVB s x kk), skip_spec (exec_sneVB s x kk), skip_spec (exec_seVV s x y),
    skip_spec (exec_sneVV s x y), skip_spec (exec_skp s x), skip_spec (exec_sknp s x)⟩

/-! ### Writes of one register -/

/-- An instruction that writes v to V[x] and moves pc on: what it says of Vx is what holds of v. -/
theorem setV_advance_spec {i : Instr} {s : State} {x : Reg} {v : Byte} {P : Byte → Prop}
    (h : exec i s = .next (s.setV x v).advance) (hv : P v) :
    ∃ t, exec i s = .next t ∧ P (t.getV x) ∧ PcAdvances 2 s t ∧ UnchangedExcept (fun c => c = .pc ∨ c = .reg x) s t := by
  have hread : (s.setV x v).advance.getV x = v := State.getV_setV_same s x v
  exact ⟨_, h, hread.symm ▸ hv, pcAdvances_advance (s.setV x v), unchangedExcept_setV_advance s x v⟩

/-- Settles O33: the five results. -/
theorem immediatesAndLogicWriteVx : Obligations.ImmediatesAndLogicWriteVx := by
  unfold Obligations.ImmediatesAndLogicWriteVx
  intro x y kk s
  refine ⟨setV_advance_spec (P := fun v => v = kk) (exec_ldVB s x kk) rfl, ?_, ?_, ?_, ?_⟩
  · exact setV_advance_spec (P := fun v => v.toNat = ((s.getV x).toNat + kk.toNat) % 256) (exec_addVB s x kk)
      (BitVec.toNat_add _ _)
  · exact setV_advance_spec (P := fun v => ∀ k, v.getLsbD k = ((s.getV x).getLsbD k || (s.getV y).getLsbD k))
      (exec_orVV s x y) fun _ => BitVec.getLsbD_or
  · exact setV_advance_spec (P := fun v => ∀ k, v.getLsbD k = ((s.getV x).getLsbD k && (s.getV y).getLsbD k))
      (exec_andVV s x y) fun _ => BitVec.getLsbD_and
  · exact setV_advance_spec (P := fun v => ∀ k, v.getLsbD k = ((s.getV x).getLsbD k ^^ (s.getV y).getLsbD k))
      (exec_xorVV s x y) fun _ => BitVec.getLsbD_xor

/-! ### Writes of a result and a flag (R89) -/

theorem flagByte_toNat (p : Prop) [Decidable p] : (flagByte (decide p)).toNat = if p then 1 else 0 := by
  by_cases h : p <;> simp [flagByte, h]

/-- Settles O35: the carry is written last, so that it stays also in VF as the destination. -/
theorem addSetsCarry : Obligations.AddSetsCarry := by
  unfold Obligations.AddSetsCarry
  intro x y s
  refine ⟨_, exec_addVV s x y, ?_, fun hx => ?_, pcAdvances_advance _,
    (unchangedExcept_resultThenFlag s x _ _).then_advance⟩
  · rw [State.advance_getV, resultThenFlag_getV, if_pos rfl]
    exact flagByte_toNat _
  · rw [State.advance_getV, resultThenFlag_getV, if_neg hx, if_pos rfl]
    exact BitVec.toNat_add _ _

/-- An instruction that writes a flag to VF and then a result to V[x], where x = F keeps the result. -/
theorem flagThenResult_spec {i : Instr} {s : State} {x : Reg} {flag result : Byte} {m n : Nat}
    (h : exec i s = .next (flagThenResult s x flag result).advance) (hresult : result.toNat = m)
    (hflag : flag.toNat = n) :
    ∃ t, exec i s = .next t ∧ (t.getV x).toNat = m ∧ (x ≠ 15 → (t.getV 15).toNat = n) ∧ PcAdvances 2 s t ∧
      UnchangedExcept (fun c => c = .pc ∨ c = .reg x ∨ c = .reg 15) s t := by
  refine ⟨_, h, ?_, fun hx => ?_, pcAdvances_advance _, (unchangedExcept_flagThenResult s x flag result).then_advance⟩
  · rw [State.advance_getV, flagThenResult_getV, if_pos rfl, hresult]
  · rw [State.advance_getV, flagThenResult_getV, if_neg hx.symm, if_pos rfl, hflag]

theorem sub_toNat (a b : Byte) : (a - b).toNat = (a.toNat + 256 - b.toNat) % 256 := by
  have hb := b.isLt
  rw [BitVec.toNat_sub]
  omega

/-- Settles O36: both differences, with the strict comparison as their flag. -/
theorem subtractionsSetStrictGreater : Obligations.SubtractionsSetStrictGreater := by
  unfold Obligations.SubtractionsSetStrictGreater
  exact fun x y s => ⟨flagThenResult_spec (exec_subVV s x y) (sub_toNat _ _) (flagByte_toNat _),
    flagThenResult_spec (exec_subn s x y) (sub_toNat _ _) (flagByte_toNat _)⟩

theorem shrFlag_toNat (a : Byte) : (shrFlag a).toNat = a.toNat % 2 := by
  rw [shrFlag, BitVec.toNat_and]
  exact Nat.and_one_is_mod _

theorem shlFlag_toNat (a : Byte) : (shlFlag a).toNat = a.toNat / 128 := by
  have ha := a.isLt
  have hshift : (a >>> 7).toNat = a.toNat / 128 := by rw [BitVec.toNat_ushiftRight, Nat.shiftRight_eq_div_pow]
  rw [shlFlag, BitVec.toNat_and, hshift]
  exact (Nat.and_one_is_mod _).trans (Nat.mod_eq_of_lt (by omega))

/-- Settles O37: halving and doubling, with the bit shifted out as their flag. -/
theorem shiftsUseVxAlone : Obligations.ShiftsUseVxAlone := by
  unfold Obligations.ShiftsUseVxAlone
  refine fun x y s => ⟨flagThenResult_spec (exec_shr s x y) ?_ (shrFlag_toNat _),
    flagThenResult_spec (exec_shl s x y) ?_ (shlFlag_toNat _)⟩
  · rw [BitVec.toNat_ushiftRight, Nat.shiftRight_eq_div_pow]
  · rw [BitVec.toNat_shiftLeft, Nat.shiftLeft_eq, Nat.mul_comm]

/-! ### The random byte (R101) -/

theorem hostStep_of_next_running {r : Byte} {s t : State} (h : step (s.supply r) = .next t) (hm : t.mode = .running) :
    hostStep r s = .next (.ok, t.unsupply) := by
  rw [hostStep_of_next h, stepReply_of_running hm]

/-- Settles O38: the mask clears every bit outside kk, whatever the byte; and a byte that the host passed is the one used. -/
theorem randomByteIsMasked : Obligations.RandomByteIsMasked := by
  unfold Obligations.RandomByteIsMasked
  refine ⟨fun x kk s => ⟨_, exec_rnd s x kk, ?_, pcAdvances_advance _, ?_⟩, fun x kk r s hm hn => ?_⟩
  · have hread : (s.drawn.setV x (s.randomByte &&& kk)).advance.getV x = s.randomByte &&& kk :=
      State.getV_setV_same s.drawn x _
    rw [hread, BitVec.and_assoc, BitVec.and_not_self]
    exact BitVec.and_zero
  · exact (((unchangedExcept_drawn s).then_trans (unchangedExcept_setV _ _ _)).then_advance).mono (by tauto)
  · have hstep : step (s.supply r) = .next ((s.supply r).drawn.setV x (r &&& kk)).advance.countInstr := by
      rw [step_of_instr (s := s.supply r) hm hn, exec_rnd, retire_next]
      rfl
    exact ⟨_, hostStep_of_next_running hstep (by simp [hm]), by simp⟩

/-! ### The index register, the font, the key wait -/

/-- Settles O40: a 16-bit sum. -/
theorem indexAddWrapsAtSixteenBits : Obligations.IndexAddWrapsAtSixteenBits := by
  unfold Obligations.IndexAddWrapsAtSixteenBits
  intro x s
  refine ⟨_, exec_addIV s x, ?_, pcAdvances_advance _, unchangedExcept_setI_advance s _⟩
  show (s.I + (s.getV x).setWidth 16).toNat = _
  rw [BitVec.toNat_add, BitVec.toNat_setWidth_of_le (by decide)]

theorem lowNibble_val (s : State) (x : Reg) : (lowNibble s x).val = (s.getV x).toNat % 16 := by
  simp [lowNibble]

/-- Every glyph lies below 0x200, where the font ends at the latest (R12). -/
theorem glyphAddr_toNat (s : State) (x : Reg) :
    (glyphAddr s x).toNat = s.cfg.fontBase.val + 5 * ((s.getV x).toNat % 16) := by
  have hbase := s.cfg.fontBase.isLt
  rw [glyphAddr, BitVec.toNat_ofNat, lowNibble_val]
  omega

/-- Settles O41: the address of the glyph, and its last byte. -/
theorem glyphAddressForEveryFontBase : Obligations.GlyphAddressForEveryFontBase := by
  unfold Obligations.GlyphAddressForEveryFontBase
  intro x s
  have hI : (s.setI (glyphAddr s x)).advance.I.toNat = _ := glyphAddr_toNat s x
  have hbase := s.cfg.fontBase.isLt
  exact ⟨_, exec_ldFV s x, hI, by omega, pcAdvances_advance _, unchangedExcept_setI_advance s _⟩

/-- Settles O54: the mode is the only part written. -/
theorem keyWaitBegins : Obligations.KeyWaitBegins := by
  unfold Obligations.KeyWaitBegins
  exact fun x s => ⟨_, exec_ldVK s x, rfl, rfl, unchangedExcept_setMode s _⟩

end Sys2Proof.Machine
end

section
/-! PROOF. The host's operations (R126 to R135) and initialize (R142): the bytes and fields after it, and the session before the
first one (R19). -/

namespace Sys2Proof.Machine

/-! ### Reads and writes of the host -/

theorem unchangedExcept_setKeyState (s : State) (keys : Word) :
    UnchangedExcept (fun c => c = .keys) s (s.setKeyState keys) := by
  intro c hc
  cases c with
  | keys => exact absurd rfl hc
  | _ => rfl

theorem unchangedExcept_redrawn (s : State) : UnchangedExcept (fun c => c = .dirty) s s.redrawn := by
  intro c hc
  cases c with
  | dirty => exact absurd rfl hc
  | _ => rfl

theorem unchangedExcept_enableDebug (s : State) (n : Nat) :
    UnchangedExcept (fun c => c = .debugEnabled ∨ c = .debugCount) s (s.enableDebug n) := by
  intro c hc
  cases c with
  | debugEnabled => exact absurd (.inl rfl) hc
  | debugCount => exact absurd (.inr rfl) hc
  | _ => rfl

theorem readMemoryReply_of_lt (s : State) {a : Nat} (h : a < 4096) : readMemoryReply s a = .byte (s.byteAt a) := by
  rw [readMemoryReply, State.memRead, if_pos h]

theorem readMemoryReply_of_le (s : State) {a : Nat} (h : 4096 ≤ a) : readMemoryReply s a = .addressError := by
  rw [readMemoryReply, State.memRead, if_neg (Nat.not_lt_of_le h)]

/-- The index y * 64 + x of R30 splits into its column and row. -/
theorem fbIndex_eq_pixel (s : State) {x : Fin 64} {y : Fin 32} {idx : Fin 2048} (h : idx.val = y.val * 64 + x.val) :
    s.fbIndex idx = s.pixel x y := by
  have hx : Fin.ofNat 64 idx.val = x := Fin.ext (show idx.val % 64 = x.val by omega)
  have hy : Fin.ofNat 32 (idx.val / 64) = y := Fin.ext (show idx.val / 64 % 32 = y.val by omega)
  rw [State.fbIndex, hx, hy]

/-- Settles O59, operation by operation. -/
theorem hostReadsAndWrites : Obligations.HostReadsAndWrites := by
  unfold Obligations.HostReadsAndWrites
  intro s keys c a
  exact ⟨⟨_, rfl, rfl, unchangedExcept_setKeyState s keys⟩, ⟨_, rfl, rfl, unchangedExcept_redrawn s⟩,
    ⟨_, rfl, rfl, rfl, unchangedExcept_enableDebug s c⟩,
    fun h => by rw [hostOp, readMemoryReply_of_lt s h],
    fun h => by rw [hostOp, readMemoryReply_of_le s h], fun x y idx => fbIndex_eq_pixel s⟩

/-! ### Booting with a ROM -/

theorem boot_of_le (s : State) {rom : List Byte} (h : rom.length ≤ 3584) :
    s.boot rom = some (s.zeroed.storeRun 0x200 rom) :=
  ((boot_cases s rom).resolve_right fun h' => absurd h'.1 (Nat.not_lt_of_le h)).2

theorem boot_of_lt (s : State) {rom : List Byte} (h : 3584 < rom.length) : s.boot rom = none :=
  ((boot_cases s rom).resolve_left fun h' => absurd h (Nat.not_lt_of_le h'.1)).2

/-! ### The bytes of reset memory (R38, R48) -/

theorem resetByte_font (c : Config) {a : Nat} (h : a < 80) : resetByte c (c.fontBase.val + a) = c.font[a] := by
  rw [resetByte, if_pos (Nat.le_add_right _ _), Nat.add_sub_cancel_left, Vector.getElem?_eq_getElem h]
  rfl

theorem resetByte_outside (c : Config) {a : Nat} (h : a < c.fontBase.val ∨ c.fontBase.val + 80 ≤ a) :
    resetByte c a = 0 := by
  unfold resetByte
  split
  · rw [Vector.getElem?_eq_none (by omega)]
    rfl
  · rfl

/-- After initialize an address is a byte of the ROM, or reads as at reset. -/
theorem byteAt_booted (s : State) {rom : List Byte} (h : rom.length ≤ 3584) (b : Nat) :
    (s.zeroed.storeRun 0x200 rom).byteAt b =
      if 0x200 ≤ b ∧ b < 0x200 + rom.length then rom.getD (b - 0x200) 0 else resetByte s.cfg b := by
  have hm : Memory.wf s.zeroed.cfg s.zeroed.mem = true := State.resetWith_wf s.cfg
  rw [State.byteAt_storeRun hm (by omega), State.zeroed_byteAt]

theorem byteAt_booted_outside (s : State) {rom : List Byte} (h : rom.length ≤ 3584) {b : Nat}
    (hb : b < 0x200 ∨ 0x200 + rom.length ≤ b) : (s.zeroed.storeRun 0x200 rom).byteAt b = resetByte s.cfg b := by
  rw [byteAt_booted s h, if_neg (by omega)]

theorem byteAt_booted_rom (s : State) {rom : List Byte} (h : rom.length ≤ 3584) {a : Nat} {v : Byte}
    (ha : rom[a]? = some v) : (s.zeroed.storeRun 0x200 rom).byteAt (0x200 + a) = v := by
  obtain ⟨hlt, _⟩ := List.getElem?_eq_some_iff.mp ha
  rw [byteAt_booted s h, if_pos (by omega), Nat.add_sub_cancel_left, List.getD_eq_getElem?_getD, ha]
  rfl

/-- Settles O56: the reset values with the ROM stored at 0x200, and the font, which ends below it, still in place. -/
theorem initializeResetsAndLoads : Obligations.InitializeResetsAndLoads := by
  unfold Obligations.InitializeResetsAndLoads
  refine fun rom s => ⟨fun hlarge => ?_, fun hfits => ?_⟩
  · simp only [hostOp, hostInit, boot_of_lt s hlarge]
  have hbase := s.cfg.fontBase.isLt
  refine ⟨s.zeroed.storeRun 0x200 rom, by simp only [hostOp, hostInit, boot_of_le s hfits],
    fun a v => byteAt_booted_rom s hfits, fun a ha => ?_, fun a ha => ?_, fun a hlow hfont => ?_, rfl, rfl,
    State.zeroed_getV s, rfl, rfl, rfl, State.zeroed_pixel s, rfl, rfl, rfl, rfl, rfl, rfl⟩
  · rw [byteAt_booted_outside s hfits (.inr ha)]
    exact resetByte_outside s.cfg (.inr (by omega))
  · rw [byteAt_booted_outside s hfits (.inl (by omega))]
    exact resetByte_font s.cfg ha
  · rw [byteAt_booted_outside s hfits (.inl hlow)]
    exact resetByte_outside s.cfg hfont

/-- Settles O60: the refusal of each other operation, and the two outcomes of the first initialize. -/
theorem nothingRunsBeforeInitialize : Obligations.NothingRunsBeforeInitialize := by
  unfold Obligations.NothingRunsBeforeInitialize
  refine fun c op rom => ⟨fun hop => ?_, fun hfits => ?_, fun hlarge => ?_⟩
  · cases op with
    | init rom => exact absurd rfl (hop rom)
    | _ => rfl
  · refine ⟨(State.resetWith c).zeroed.storeRun 0x200 rom, ?_, rfl⟩
    simp only [sessionOp, coldInit, boot_of_le (State.resetWith c) hfits]
  · simp only [sessionOp, coldInit, boot_of_lt (State.resetWith c) hlarge]

end Sys2Proof.Machine
end
